-- ==== Sys2Proof/Word.lean ====
section
/-!
DEFINITION. The word types of the AES-4 core (spec/00_scope.md R9 to R11), bit 0 the least significant bit.
Everything is unsigned; a value that the spec treats as bits is a bit vector of exactly the spec's width.
-/

namespace Sys2Proof

/-- R11: 4 bits, the atomic unit of cipher state; an element of GF(2^4) by R100. -/
abbrev Nibble := BitVec 4

/-- R11: 8 bits; a key-schedule word (R9). -/
abbrev Byte := BitVec 8

/-- R11: a Block, a Key, a Subkey or a state word, each 16 bits. -/
abbrev Half := BitVec 16

/-- R60: the 48-bit command word. -/
abbrev CommandWord := BitVec 48

/-- R62: the 20-bit response word. -/
abbrev ResponseWord := BitVec 20

end Sys2Proof
end

