-- ==== Sys2Proof/Syntax.lean ====
section
/-!
DEFINITION. The twenty commands of the AES-4 core (spec/30_encoding.md R64), one constructor per row of
spec/opcode_table.json, each with the operand bits the row's format gives it (R61, R68) and nothing else: a bit that must be
zero has no place in a command. Operands are raw slices; which values of them are legal is WellFormed's question (R66, R67).
-/

namespace Sys2Proof

inductive Instr where
  /-- R103: multiply two nibbles in GF(2^4). -/
  | gfmul (x y : Nibble)
  /-- R112: substitute one nibble. -/
  | sbox (n : Nibble)
  /-- R113: inverse-substitute one nibble. -/
  | isbox (n : Nibble)
  /-- R123: decode a Block into a State. -/
  | tostate (x : Half)
  /-- R124: encode a State into a Block. -/
  | toblock (w : Half)
  /-- R134: the key-schedule byte function. -/
  | sub2nib (x : Byte)
  /-- R135: expand a Key and load the round-key file. -/
  | kexp (key : Half)
  /-- R137: read round key `index` (cfg[2:0], legal 0..4). -/
  | rdrk (index : BitVec 3)
  /-- R160: SubNibbles. -/
  | subn (w : Half)
  /-- R161: inverse SubNibbles. -/
  | isubn (w : Half)
  /-- R162: RowShift. -/
  | rowsh (w : Half)
  /-- R163: ColumnMix. -/
  | colmix (w : Half)
  /-- R164: inverse ColumnMix. -/
  | icolmix (w : Half)
  /-- R165: AddRoundKey of a state word and a subkey. -/
  | addkey (w subkey : Half)
  /-- R167: forward full round. -/
  | round (w subkey : Half)
  /-- R168: final round. -/
  | fround (w subkey : Half)
  /-- R169: inverse full round. -/
  | iround (w subkey : Half)
  /-- R187: encrypt a Block; `variant` is cfg[5:4], `rounds` is cfg[2:0] (R66). -/
  | enc (variant : BitVec 2) (rounds : BitVec 3) (p : Half)
  /-- R189: decrypt a Block; `variant` and `rounds` as for `enc`. -/
  | dec (variant : BitVec 2) (rounds : BitVec 3) (c : Half)
  /-- R200: read the status flags. -/
  | rdstat
  deriving DecidableEq, Repr

end Sys2Proof
end

