-- ==== Sys2Proof/WellFormed.lean ====
section
/-!
DEFINITION. The value constraints that the masks of spec/30_encoding.md R64 cannot express: step (3) of R69. A command that
breaks one has no legal encoding.
-/

namespace Sys2Proof

/-- R67: a round-key index is 0 to 4. -/
def legalKeyIndex (index : BitVec 3) : Bool := decide (index.toNat ≤ 4)

/-- R66: a variant is 0 (Standard), 1 (Lazy) or 2 (VeryLazy). -/
def legalVariant (variant : BitVec 2) : Bool := decide (variant.toNat ≤ 2)

/-- R66: a round count is 1 to 4. -/
def legalRounds (rounds : BitVec 3) : Bool := decide (1 ≤ rounds.toNat ∧ rounds.toNat ≤ 4)

/-- R66, R67, R69 (3): the operands of RDRK, ENC and DEC are legal; every other command is legal for all its operands. -/
def Instr.wellFormed : Instr → Bool
  | .gfmul _ _ => true
  | .sbox _ => true
  | .isbox _ => true
  | .tostate _ => true
  | .toblock _ => true
  | .sub2nib _ => true
  | .kexp _ => true
  | .rdrk index => legalKeyIndex index
  | .subn _ => true
  | .isubn _ => true
  | .rowsh _ => true
  | .colmix _ => true
  | .icolmix _ => true
  | .addkey _ _ => true
  | .round _ _ => true
  | .fround _ _ => true
  | .iround _ _ => true
  | .enc variant rounds _ => legalVariant variant && legalRounds rounds
  | .dec variant rounds _ => legalVariant variant && legalRounds rounds
  | .rdstat => true

end Sys2Proof
end

