-- ==== Sys2Proof/Decode.lean ====
section
/-!
DEFINITION. Decoding and encoding of command words (spec/30_encoding.md). `decode` is total on all 2^48 words, reads no state
and rejects by name in the three steps of R69; `encode` is R74, written from the formats of R61 and the opcodes of R64.
-/

namespace Sys2Proof

/-- R60: the four fields of a command word, most significant first. -/
structure Fields where
  op : Byte
  cfg : Byte
  a : Half
  b : Half
  deriving DecidableEq, Repr

/-- R60: op is bits 47:40, cfg 39:32, a 31:16, b 15:0. -/
def fieldsOf (w : CommandWord) : Fields :=
  { op := w.extractLsb' 40 8, cfg := w.extractLsb' 32 8, a := w.extractLsb' 16 16, b := w.extractLsb' 0 16 }

/-- R74: word = (op << 40) or (cfg << 32) or (a << 16) or b. -/
def Fields.word (f : Fields) : CommandWord :=
  (f.op ++ f.cfg ++ f.a ++ f.b).cast (by decide)

/-- Why a word is illegal, by the step of R69 that refuses it. Each of them raises ILLEGAL_COMMAND (R70, R211). -/
inductive Reject where
  /-- R69 (1): the opcode is none of the twenty. -/
  | unassignedOpcode
  /-- R69 (2), R65: a must-be-zero bit of the opcode's format is set. -/
  | mustBeZero
  /-- R69 (3), R66, R67: a round-key index, variant or round count outside its legal values. -/
  | reservedOperand
  deriving DecidableEq, Repr

/-- R69 (2): the command, if all the must-be-zero bits are 0. -/
def ifZero (zero : Bool) (i : Instr) : Except Reject Instr :=
  if zero then .ok i else .error .mustBeZero

/-- R61, format N: no operand. -/
def formatN (f : Fields) (i : Instr) : Except Reject Instr :=
  ifZero (f.cfg == 0 && f.a == 0 && f.b == 0) i

/-- R61, format NN: nibbles a[3:0] and b[3:0]. -/
def formatNN (f : Fields) (i : Nibble → Nibble → Instr) : Except Reject Instr :=
  ifZero (f.cfg == 0 && f.a.extractLsb' 4 12 == 0 && f.b.extractLsb' 4 12 == 0)
    (i (f.a.extractLsb' 0 4) (f.b.extractLsb' 0 4))

/-- R61, format N1: nibble a[3:0]. -/
def formatN1 (f : Fields) (i : Nibble → Instr) : Except Reject Instr :=
  ifZero (f.cfg == 0 && f.a.extractLsb' 4 12 == 0 && f.b == 0) (i (f.a.extractLsb' 0 4))

/-- R61, format B1: byte a[7:0]. -/
def formatB1 (f : Fields) (i : Byte → Instr) : Except Reject Instr :=
  ifZero (f.cfg == 0 && f.a.extractLsb' 8 8 == 0 && f.b == 0) (i (f.a.extractLsb' 0 8))

/-- R61, format W1: the whole of a. -/
def formatW1 (f : Fields) (i : Half → Instr) : Except Reject Instr :=
  ifZero (f.cfg == 0 && f.b == 0) (i f.a)

/-- R61, format W2: the whole of a and of b. -/
def formatW2 (f : Fields) (i : Half → Half → Instr) : Except Reject Instr :=
  ifZero (f.cfg == 0) (i f.a f.b)

/-- R61, format I: index cfg[2:0]. -/
def formatI (f : Fields) (i : BitVec 3 → Instr) : Except Reject Instr :=
  ifZero (f.cfg.extractLsb' 3 5 == 0 && f.a == 0 && f.b == 0) (i (f.cfg.extractLsb' 0 3))

/-- R61, R66, format C1: variant cfg[5:4], round count cfg[2:0], Block a. -/
def formatC1 (f : Fields) (i : BitVec 2 → BitVec 3 → Half → Instr) : Except Reject Instr :=
  ifZero (f.cfg.extractLsb' 6 2 == 0 && f.cfg.extractLsb' 3 1 == 0 && f.b == 0)
    (i (f.cfg.extractLsb' 4 2) (f.cfg.extractLsb' 0 3) f.a)

/-- R69 (1) and (2): the row of R64 that the opcode selects, read in that row's format. -/
def decodeShape (f : Fields) : Except Reject Instr :=
  if f.op = 0x01#8 then formatNN f .gfmul
  else if f.op = 0x02#8 then formatN1 f .sbox
  else if f.op = 0x03#8 then formatN1 f .isbox
  else if f.op = 0x04#8 then formatW1 f .tostate
  else if f.op = 0x05#8 then formatW1 f .toblock
  else if f.op = 0x06#8 then formatB1 f .sub2nib
  else if f.op = 0x07#8 then formatW1 f .kexp
  else if f.op = 0x08#8 then formatI f .rdrk
  else if f.op = 0x10#8 then formatW1 f .subn
  else if f.op = 0x11#8 then formatW1 f .isubn
  else if f.op = 0x12#8 then formatW1 f .rowsh
  else if f.op = 0x13#8 then formatW1 f .colmix
  else if f.op = 0x14#8 then formatW1 f .icolmix
  else if f.op = 0x15#8 then formatW2 f .addkey
  else if f.op = 0x16#8 then formatW2 f .round
  else if f.op = 0x17#8 then formatW2 f .fround
  else if f.op = 0x18#8 then formatW2 f .iround
  else if f.op = 0x20#8 then formatC1 f .enc
  else if f.op = 0x21#8 then formatC1 f .dec
  else if f.op = 0x30#8 then formatN f .rdstat
  else .error .unassignedOpcode

/-- R69 (3): the value constraints. -/
def checkOperands (i : Instr) : Except Reject Instr :=
  if i.wellFormed then .ok i else .error .reservedOperand

/-- R69: one of the 20 commands with its operands, or illegal for a named reason. -/
def decode (w : CommandWord) : Except Reject Instr :=
  match decodeShape (fieldsOf w) with
  | .ok i => checkOperands i
  | .error r => .error r

/-- R66: the cfg byte of a CipherConfig: `00`, variant, `0`, round count. -/
def configByte (variant : BitVec 2) (rounds : BitVec 3) : Byte :=
  (0#2 ++ variant ++ 0#1 ++ rounds).cast (by decide)

/-- R61, R64, R74: the fields of a command, operands right-aligned and every other bit 0. -/
def encodeFields : Instr → Fields
  | .gfmul x y => { op := 0x01, cfg := 0, a := x.setWidth 16, b := y.setWidth 16 }
  | .sbox n => { op := 0x02, cfg := 0, a := n.setWidth 16, b := 0 }
  | .isbox n => { op := 0x03, cfg := 0, a := n.setWidth 16, b := 0 }
  | .tostate x => { op := 0x04, cfg := 0, a := x, b := 0 }
  | .toblock w => { op := 0x05, cfg := 0, a := w, b := 0 }
  | .sub2nib x => { op := 0x06, cfg := 0, a := x.setWidth 16, b := 0 }
  | .kexp key => { op := 0x07, cfg := 0, a := key, b := 0 }
  | .rdrk index => { op := 0x08, cfg := index.setWidth 8, a := 0, b := 0 }
  | .subn w => { op := 0x10, cfg := 0, a := w, b := 0 }
  | .isubn w => { op := 0x11, cfg := 0, a := w, b := 0 }
  | .rowsh w => { op := 0x12, cfg := 0, a := w, b := 0 }
  | .colmix w => { op := 0x13, cfg := 0, a := w, b := 0 }
  | .icolmix w => { op := 0x14, cfg := 0, a := w, b := 0 }
  | .addkey w k => { op := 0x15, cfg := 0, a := w, b := k }
  | .round w k => { op := 0x16, cfg := 0, a := w, b := k }
  | .fround w k => { op := 0x17, cfg := 0, a := w, b := k }
  | .iround w k => { op := 0x18, cfg := 0, a := w, b := k }
  | .enc variant rounds p => { op := 0x20, cfg := configByte variant rounds, a := p, b := 0 }
  | .dec variant rounds c => { op := 0x21, cfg := configByte variant rounds, a := c, b := 0 }
  | .rdstat => { op := 0x30, cfg := 0, a := 0, b := 0 }

/-- R74: the word of a command (of an ill-formed one too: the word its operand values would have). -/
def encode (i : Instr) : CommandWord := (encodeFields i).word

/-- R60, R71: a command is one 48-bit word, so the table's bit numbers are the word's own; the bits above `nbits` are 0.
DESIGN CHOICE (assumption 14), safe: no command is longer than 48 bits, so a longer row is refused. -/
def tableWord (nbits w : Nat) : CommandWord := BitVec.ofNat 48 (w % 2 ^ nbits)

/-- What the decoder reads from an instruction whose bits are `w`, numbered as spec/opcode_table.json numbers them. -/
def decodeTableWord (nbits w : Nat) : Option Instr :=
  if nbits ≤ 48 then (decode (tableWord nbits w)).toOption else none

end Sys2Proof
end

