-- ==== Sys2Proof/Config.lean ====
section
/-!
DEFINITION. The implementation parameters of the AES-4 core (spec/00_scope.md R6 to R8): what an implementation fixes and
the spec leaves open. A parameter set is DATA that the state carries and no step writes (assumption 2), so that every
statement over all states holds for every table the rules allow. The spec's default values are in
Sys2Proof/Machine/Defaults.lean.
-/

namespace Sys2Proof

/-- R6: the table is a bijection on 0..15; for 16 entries of 4 bits that is: no entry occurs twice. -/
def Config.isBijection (table : Vector Nibble 16) : Bool :=
  decide table.toList.Nodup

/-- R7: the four round constants are pairwise distinct. -/
def Config.areDistinct (rcon1 rcon2 rcon3 rcon4 : Byte) : Bool :=
  decide [rcon1, rcon2, rcon3, rcon4].Nodup

/-- The three open parameters, each with the constraint the spec puts on it. `ISBOX` is no parameter of its own: it is
determined by `SBOX` (spec/20_memory.md R41). -/
structure Params where
  /-- R6, R40: `SBOX`, index 0 first. -/
  sbox : Vector Nibble 16
  /-- R7, R42: `RCON[1]`. -/
  rcon1 : Byte
  /-- R7, R42: `RCON[2]`. -/
  rcon2 : Byte
  /-- R7, R42: `RCON[3]`. -/
  rcon3 : Byte
  /-- R7, R42: `RCON[4]`. -/
  rcon4 : Byte
  /-- R8: `LAZY_ROWSHIFT`, whether a Lazy or VeryLazy round keeps the row shift. -/
  lazyRowShift : Bool
  /-- R6: `SBOX` is a bijection. -/
  sbox_bijection : Config.isBijection sbox = true
  /-- R7: the round constants are pairwise distinct. -/
  rcon_distinct : Config.areDistinct rcon1 rcon2 rcon3 rcon4 = true
  deriving DecidableEq, Repr

end Sys2Proof
end

