-- ==== Sys2Proof/Machine/Defaults.lean ====
section
/-!
DEFINITION. The spec's default instantiation of the three parameters (spec/00_scope.md R6 to R8, spec/41_sbox.md R111).
PRESUMED (assumptions 3, 4, 5), unsafe where a statement rests on them: the spec itself marks the tables as general
knowledge. State.reset starts from them; a statement over all states does not depend on them.
-/

namespace Sys2Proof.Machine

/-- R6, R111: the S-box of the published Simplified AES, index 0 first. -/
def defaultSbox : Vector Nibble 16 :=
  #v[0x9, 0x4, 0xA, 0xB, 0xD, 0x1, 0x8, 0x5, 0x6, 0x2, 0x0, 0x3, 0xC, 0xE, 0xF, 0x7]

/-- R6 to R8: `SBOX`, `RCON[1..4]` = 80 30 60 C0, `LAZY_ROWSHIFT` false. -/
def defaultParams : Params where
  sbox := defaultSbox
  rcon1 := 0x80
  rcon2 := 0x30
  rcon3 := 0x60
  rcon4 := 0xC0
  lazyRowShift := false
  sbox_bijection := by decide
  rcon_distinct := by decide

end Sys2Proof.Machine
end

