-- ==== Sys2Proof/Machine/State.lean ====
section
/-!
DEFINITION. The state of the AES-4 core as plain data (spec/10_state.md R20, R31), the words that cross its port
(spec/30_encoding.md R60, R62), and the reasons for which a step could stop.
-/

namespace Sys2Proof.Machine

/-- R22: the round-key file `RK[0..4]`; `ki` is `RK[i]` = K_i, its high half the key-schedule word w[2i], its low half w[2i+1]. -/
structure RoundKeys where
  k0 : Half
  k1 : Half
  k2 : Half
  k3 : Half
  k4 : Half
  deriving DecidableEq, Repr

/-- R210: the three fault codes. -/
inductive FaultCode where
  /-- 1: the command word decodes to illegal (R211). -/
  | illegalCommand
  /-- 2: DEC with a legal CipherConfig other than Standard-2 (R212). -/
  | unsupportedConfig
  /-- 3: RDRK, ENC or DEC while RKV = 0 (R213). -/
  | noKey
  deriving DecidableEq, Repr

/-- R62, R210: the status of a response; in `ERR` (R25) `ok` says that no fault has been recorded. Codes 4 to 15 are never
produced and cannot be expressed (assumption 8). -/
inductive Status where
  | ok
  | fault (c : FaultCode)
  deriving DecidableEq, Repr

/-- R62: one response, {status, data}. -/
structure Response where
  status : Status
  data : Half
  deriving DecidableEq, Repr

/-- R245: what the host does at the core's port (assumption 1). -/
inductive HostEvent where
  /-- One command word is presented; the host waits for its response (R247). -/
  | command (w : CommandWord)
  /-- Reset is asserted between two commands (R240). -/
  | reset
  /-- Reset is asserted while the command `w` executes (R241). -/
  | resetDuring (w : CommandWord)
  deriving DecidableEq, Repr

structure State where
  /-- R20, R24, R31: `none` is RKV = 0 and RK[0..4] hold no value; `some ks` is RKV = 1 and RK[i] = ks.ki. -/
  keys : Option RoundKeys
  /-- R20, R25: the first fault since reset. -/
  err : Status
  /-- The model's own (assumption 2): the implementation parameters; no step writes them. -/
  par : Params
  /-- The model's own (assumption 1): what the host will do, in its order. -/
  inputs : List HostEvent
  /-- The model's own (assumption 1): the responses the core has given, oldest first. -/
  responses : List Response
  deriving DecidableEq, Repr

/-- What could stop the machine with a fault of the MODEL. There is none: the spec's three faults are responses, after which
the core is at once ready for the next command (R215 d), so each of them is a next state (assumption 9, safe). -/
inductive Fault where
  deriving DecidableEq, Repr

/-- Why the model would give an instruction no meaning. -/
inductive Refusal where
  /-- Raised by an arm of `exec` whose command has no meaning yet (none is left); safe. -/
  | notModelled (mnemonic : String)
  deriving DecidableEq, Repr

/-- R28, R30, R240: RKV = 0, ERR = 0, RK holds no value. The parameters are the spec's defaults (assumptions 3, 4, 5) and
the port is idle (assumption 1). -/
def State.reset : State where
  keys := none
  err := .ok
  par := defaultParams
  inputs := []
  responses := []

end Sys2Proof.Machine
end

