-- ==== Sys2Proof/Machine/Flags.lean ====
section
/-!
DEFINITION. The two flags of the AES-4 core, RKV and ERR (spec/10_state.md R24, R25), and the codes software sees
(spec/60_exceptions.md R210). There are no arithmetic condition codes (R25).
-/

namespace Sys2Proof.Machine

/-- R24, R31: RKV is 1 exactly when the round-key file holds values. -/
def State.rkv (s : State) : Bool := s.keys.isSome

/-- R210: 1, 2 or 3. -/
def FaultCode.code : FaultCode → BitVec 4
  | .illegalCommand => 1
  | .unsupportedConfig => 2
  | .noKey => 3

/-- R210: 0 is OK. -/
def Status.code : Status → BitVec 4
  | .ok => 0
  | .fault c => c.code

/-- R25, R215 (b): ERR after a fault with code `c`; the first fault stays. -/
def recordFault (c : FaultCode) : Status → Status
  | .ok => .fault c
  | .fault first => .fault first

/-- R62: {status, data}, status in bits 19:16. -/
def Response.word (r : Response) : ResponseWord := (r.status.code ++ r.data).cast (by decide)

/-- R200: {0b00000000000, RKV, ERR}. -/
def statusData (s : State) : Half := (0#11 ++ BitVec.ofBool s.rkv ++ s.err.code).cast (by decide)

end Sys2Proof.Machine
end

