-- ==== Sys2Proof/Machine/Ops.lean ====
section
/-!
DEFINITION. The named operations over the state: how a command ends (`respond`, `raise`), how the round-key file is read and
written, and reset. Every meaning ends in one of the first two.
-/

namespace Sys2Proof.Machine

/-- What a meaning answers. -/
abbrev Result := Host.Outcome State Fault Refusal

/-- The response leaves the core (R62: exactly one for a command). -/
def State.emit (s : State) (r : Response) : State := { s with responses := s.responses ++ [r] }

/-- R12, R62: the command ends normally with data `d`. -/
def respond (d : Half) (s : State) : Result := .next (s.emit { status := .ok, data := d })

/-- R215: a fault with code `c`: the response is {c, 0}, ERR keeps the first fault, nothing else is written and no control
is transferred. This is the whole of fault entry; there is no return from it (R218). -/
def raise (c : FaultCode) (s : State) : Result :=
  .next ({ s with err := recordFault c s.err }.emit { status := .fault c, data := 0 })

/-- R213: a command that reads RK goes on with the round keys, or raises NO_KEY while RKV = 0. -/
def withKeys (s : State) (go : RoundKeys → Result) : Result :=
  match s.keys with
  | none => raise .noKey s
  | some ks => go ks

/-- R22, R135: all five round keys are written in one step and RKV becomes 1. -/
def State.loadKeys (s : State) (ks : RoundKeys) : State := { s with keys := some ks }

/-- R240: RKV <- 0, ERR <- 0, RK loses its values; the tables are unchanged (R28) and no response is produced. -/
def State.applyReset (s : State) : State := { s with keys := none, err := .ok }

end Sys2Proof.Machine
end

