-- ==== Sys2Proof/Machine/Operands.lean ====
section
/-!
DEFINITION. The operand forms of the commands: the State carried as a state word (spec/00_scope.md R11), the halves of a
subkey and a Key, the CipherConfig (spec/30_encoding.md R66) and the round-key index (R67).
-/

namespace Sys2Proof.Machine

/-- R11, R150: the cipher State [s0, s1, s2, s3], a transient value inside one command (spec/10_state.md R21). -/
structure Nibbles where
  s0 : Nibble
  s1 : Nibble
  s2 : Nibble
  s3 : Nibble
  deriving DecidableEq, Repr

/-- R11: sw(st) = {s0, s1, s2, s3}. -/
def sw (st : Nibbles) : Half := (st.s0 ++ st.s1 ++ st.s2 ++ st.s3).cast (by decide)

/-- R11: unsw(w) = [w[15:12], w[11:8], w[7:4], w[3:0]]. -/
def unsw (w : Half) : Nibbles :=
  { s0 := w.extractLsb' 12 4, s1 := w.extractLsb' 8 4, s2 := w.extractLsb' 4 4, s3 := w.extractLsb' 0 4 }

/-- R11, R44: the high half of a Key or round key: w0, w[2i], subkeyHi. -/
def hiByte (k : Half) : Byte := k.extractLsb' 8 8

/-- R11, R44: the low half: w1, w[2i+1], subkeyLo. -/
def loByte (k : Half) : Byte := k.extractLsb' 0 8

/-- R44, R132: {hi, lo}. -/
def halfOf (hi lo : Byte) : Half := (hi ++ lo).cast (by decide)

/-- R180: the variants. -/
inductive Variant where
  | standard
  | lazy
  | veryLazy
  deriving DecidableEq, Repr

/-- R180: the round counts. -/
inductive RoundCount where
  | one
  | two
  | three
  | four
  deriving DecidableEq, Repr

/-- R180: one of the twelve configurations. -/
structure CipherConfig where
  variant : Variant
  rounds : RoundCount
  deriving DecidableEq, Repr

/-- R66: 3 is reserved. -/
def variantOf (v : BitVec 2) : Option Variant :=
  if v = 0#2 then some .standard
  else if v = 1#2 then some .lazy
  else if v = 2#2 then some .veryLazy
  else none

/-- R66: the round count is stored as itself; 0, 5, 6, 7 are reserved. -/
def roundCountOf (r : BitVec 3) : Option RoundCount :=
  if r = 1#3 then some .one
  else if r = 2#3 then some .two
  else if r = 3#3 then some .three
  else if r = 4#3 then some .four
  else none

/-- R66: the CipherConfig that cfg[5:4] and cfg[2:0] denote, if they denote one. -/
def configOf (v : BitVec 2) (r : BitVec 3) : Option CipherConfig :=
  match variantOf v, roundCountOf r with
  | some variant, some rounds => some { variant := variant, rounds := rounds }
  | _, _ => none

def RoundCount.toNat : RoundCount → Nat
  | .one => 1
  | .two => 2
  | .three => 3
  | .four => 4

/-- R67: the round-key index that cfg[2:0] denotes; 5, 6, 7 denote none. -/
def keyIndexOf (index : BitVec 3) : Option (Fin 5) :=
  if h : index.toNat < 5 then some ⟨index.toNat, h⟩ else none

/-- R22: RK[i]. -/
def RoundKeys.read (ks : RoundKeys) : Fin 5 → Half
  | 0 => ks.k0
  | 1 => ks.k1
  | 2 => ks.k2
  | 3 => ks.k3
  | 4 => ks.k4

end Sys2Proof.Machine
end

