-- ==== Sys2Proof/Machine/Substitution.lean ====
section
/-!
DEFINITION. Unit 2, the nibble substitution unit, and SBOX, ISBOX (spec/41_sbox.md).
-/

namespace Sys2Proof.Machine

/-- R40, R110: SBOX[n]. -/
def subNibble (P : Params) (n : Nibble) : Nibble := P.sbox[n.toNat]'n.isLt

/-- The sixteen nibbles, 0 first. -/
def allNibbles : List Nibble := (List.range 16).map (BitVec.ofNat 4)

/-- R41, R110: ISBOX[n], the nibble m with SBOX[m] = n. DEDUCED (assumption 18): SBOX is a bijection, so the search finds
exactly one and the 0 is never taken. -/
def invSubNibble (P : Params) (n : Nibble) : Nibble :=
  (allNibbles.find? fun m => subNibble P m == n).getD 0

/-- R112. -/
def execSbox (n : Nibble) (s : State) : Result := respond ((subNibble s.par n).setWidth 16) s

/-- R113. -/
def execIsbox (n : Nibble) (s : State) : Result := respond ((invSubNibble s.par n).setWidth 16) s

end Sys2Proof.Machine
end

