-- ==== Sys2Proof/Machine/KeySchedule.lean ====
section
/-!
DEFINITION. Unit 4, the key schedule engine, and SUB2NIB, KEXP, RDRK (spec/43_key_schedule.md).
-/

namespace Sys2Proof.Machine

/-- R130: {SBOX[lo], SBOX[hi]}: substitute both nibbles and swap them. -/
def sub2nib (P : Params) (x : Byte) : Byte :=
  (subNibble P (x.extractLsb' 0 4) ++ subNibble P (x.extractLsb' 4 4)).cast (by decide)

/-- R131: one expansion round. From K_(k-1) = {w[2k-2], w[2k-1]} and RCON[k] it makes K_k = {w[2k], w[2k+1]}, with
w[2k] = w[2k-2] xor RCON[k] xor sub2nib(w[2k-1]) and w[2k+1] = w[2k] xor w[2k-1]. -/
def expandRound (P : Params) (rcon : Byte) (previous : Half) : Half :=
  let even := hiByte previous ^^^ rcon ^^^ sub2nib P (loByte previous)
  halfOf even (even ^^^ loByte previous)

/-- R131, R132: K0 is the key (w[0] and w[1] are its halves), then four expansion rounds with RCON[1] to RCON[4]. -/
def expand (P : Params) (key : Half) : RoundKeys :=
  let k0 := halfOf (hiByte key) (loByte key)
  let k1 := expandRound P P.rcon1 k0
  let k2 := expandRound P P.rcon2 k1
  let k3 := expandRound P P.rcon3 k2
  let k4 := expandRound P P.rcon4 k3
  { k0 := k0, k1 := k1, k2 := k2, k3 := k3, k4 := k4 }

/-- R134. -/
def execSub2nib (x : Byte) (s : State) : Result := respond ((sub2nib s.par x).setWidth 16) s

/-- R135: the file is replaced whole and the response carries no key material. -/
def execKexp (key : Half) (s : State) : Result := respond 0 (s.loadKeys (expand s.par key))

/-- R137. An index of 5 to 7 is illegal before RKV is looked at (R70, R214). -/
def execRdrk (index : BitVec 3) (s : State) : Result :=
  match keyIndexOf index with
  | none => raise .illegalCommand s
  | some i => withKeys s fun ks => respond (ks.read i) s

end Sys2Proof.Machine
end

