-- ==== Sys2Proof/Machine/Codec.lean ====
section
/-!
DEFINITION. Unit 3, the state codec, and TOSTATE, TOBLOCK (spec/42_state_codec.md).
-/

namespace Sys2Proof.Machine

/-- R120: the Block layout is {n0, n2, n1, n3}, most significant first. -/
def toState (block : Half) : Nibbles :=
  { s0 := block.extractLsb' 12 4, s1 := block.extractLsb' 4 4, s2 := block.extractLsb' 8 4, s3 := block.extractLsb' 0 4 }

/-- R121: {s0, s2, s1, s3}. -/
def toBlock (st : Nibbles) : Half := (st.s0 ++ st.s2 ++ st.s1 ++ st.s3).cast (by decide)

/-- R123. -/
def execTostate (x : Half) (s : State) : Result := respond (sw (toState x)) s

/-- R124. -/
def execToblock (w : Half) (s : State) : Result := respond (toBlock (unsw w)) s

end Sys2Proof.Machine
end

