-- ==== Sys2Proof/Machine/Field.lean ====
section
/-!
DEFINITION. Unit 1, the GF(2^4) multiplier, and GFMUL (spec/40_field_arithmetic.md).
-/

namespace Sys2Proof.Machine

/-- R101: one iteration of the loop, at bit `i` of `b`. Both values are 8 bits wide and may carry junk above bit 3. -/
def gfStep (b : Nibble) (accT : Byte × Byte) (i : Nat) : Byte × Byte :=
  let acc := if b.getLsbD i then accT.1 ^^^ accT.2 else accT.1
  let shifted := accT.2 <<< 1
  let t := if shifted.getLsbD 4 then shifted ^^^ 0b0011 else shifted
  (acc, t)

/-- R101: carry-less multiplication followed by reduction modulo x^4+x+1. -/
def gfMul (a b : Nibble) : Nibble :=
  ([0, 1, 2, 3].foldl (gfStep b) (0, a.setWidth 8)).1.setWidth 4

/-- R103. -/
def execGfmul (x y : Nibble) (s : State) : Result := respond ((gfMul x y).setWidth 16) s

end Sys2Proof.Machine
end

