-- ==== Sys2Proof/Machine/Round.lean ====
section
/-!
DEFINITION. Unit 5, the round function, and its nine commands (spec/44_round_function.md). Operations are named by State
index (R150); every primed value is computed from the unprimed ones.
-/

namespace Sys2Proof.Machine

/-- R151. -/
def subNibbles (P : Params) (st : Nibbles) : Nibbles :=
  { s0 := subNibble P st.s0, s1 := subNibble P st.s1, s2 := subNibble P st.s2, s3 := subNibble P st.s3 }

/-- R151. -/
def invSubNibbles (P : Params) (st : Nibbles) : Nibbles :=
  { s0 := invSubNibble P st.s0, s1 := invSubNibble P st.s1, s2 := invSubNibble P st.s2, s3 := invSubNibble P st.s3 }

/-- R152: [s0, s1, s3, s2], its own inverse. -/
def rowShift (st : Nibbles) : Nibbles := { s0 := st.s0, s1 := st.s1, s2 := st.s3, s3 := st.s2 }

/-- R153. -/
def columnMix (st : Nibbles) : Nibbles :=
  { s0 := st.s0 ^^^ gfMul 4 st.s2
    s1 := st.s1 ^^^ gfMul 4 st.s3
    s2 := st.s2 ^^^ gfMul 4 st.s0
    s3 := st.s3 ^^^ gfMul 4 st.s1 }

/-- R154. -/
def invColumnMix (st : Nibbles) : Nibbles :=
  { s0 := gfMul 9 st.s0 ^^^ gfMul 2 st.s2
    s1 := gfMul 9 st.s1 ^^^ gfMul 2 st.s3
    s2 := gfMul 9 st.s2 ^^^ gfMul 2 st.s0
    s3 := gfMul 9 st.s3 ^^^ gfMul 2 st.s1 }

/-- R156: the subkey goes through the codec before the xor. -/
def addRoundKey (st : Nibbles) (k : Half) : Nibbles :=
  let t := toState k
  { s0 := st.s0 ^^^ t.s0, s1 := st.s1 ^^^ t.s1, s2 := st.s2 ^^^ t.s2, s3 := st.s3 ^^^ t.s3 }

/-- R157. -/
def fullRound (P : Params) (st : Nibbles) (k : Half) : Nibbles :=
  addRoundKey (columnMix (rowShift (subNibbles P st))) k

/-- R158. -/
def finalRound (P : Params) (st : Nibbles) (k : Half) : Nibbles :=
  addRoundKey (rowShift (subNibbles P st)) k

/-- R159. -/
def invRound (P : Params) (st : Nibbles) (k : Half) : Nibbles :=
  invSubNibbles P (rowShift (invColumnMix (addRoundKey st k)))

/-- R160. -/
def execSubn (w : Half) (s : State) : Result := respond (sw (subNibbles s.par (unsw w))) s

/-- R161. -/
def execIsubn (w : Half) (s : State) : Result := respond (sw (invSubNibbles s.par (unsw w))) s

/-- R162. -/
def execRowsh (w : Half) (s : State) : Result := respond (sw (rowShift (unsw w))) s

/-- R163. -/
def execColmix (w : Half) (s : State) : Result := respond (sw (columnMix (unsw w))) s

/-- R164. -/
def execIcolmix (w : Half) (s : State) : Result := respond (sw (invColumnMix (unsw w))) s

/-- R165. -/
def execAddkey (w subkey : Half) (s : State) : Result := respond (sw (addRoundKey (unsw w) subkey)) s

/-- R167. -/
def execRound (w subkey : Half) (s : State) : Result := respond (sw (fullRound s.par (unsw w) subkey)) s

/-- R168. -/
def execFround (w subkey : Half) (s : State) : Result := respond (sw (finalRound s.par (unsw w) subkey)) s

/-- R169. -/
def execIround (w subkey : Half) (s : State) : Result := respond (sw (invRound s.par (unsw w) subkey)) s

end Sys2Proof.Machine
end

