-- ==== Sys2Proof/Machine/Cipher.lean ====
section
/-!
DEFINITION. Unit 6, the cipher pipeline, and ENC, DEC (spec/45_cipher_pipeline.md).
-/

namespace Sys2Proof.Machine

/-- R181: K1 to K4, in order of use. -/
def RoundKeys.later (K : RoundKeys) : List Half := [K.k1, K.k2, K.k3, K.k4]

/-- R181: K_R. -/
def RoundKeys.last (K : RoundKeys) : RoundCount → Half
  | .one => K.k1
  | .two => K.k2
  | .three => K.k3
  | .four => K.k4

/-- The initial step of every variant (C6): the plaintext State with K0 added. -/
def initialState (p : Half) (K : RoundKeys) : Nibbles := addRoundKey (toState p) K.k0

/-- R182: R - 1 full rounds with K1..K(R-1), then a final round with K_R. -/
def encryptStandard (P : Params) (p : Half) (K : RoundKeys) (R : RoundCount) : Half :=
  let st := (K.later.take (R.toNat - 1)).foldl (fullRound P) (initialState p K)
  toBlock (finalRound P st (K.last R))

/-- R183: substitute and add the key; with LAZY_ROWSHIFT the row shift stands between. -/
def lazyRound (P : Params) (st : Nibbles) (k : Half) : Nibbles :=
  let substituted := subNibbles P st
  addRoundKey (if P.lazyRowShift then rowShift substituted else substituted) k

/-- R183: R lazy rounds with K1..K_R. -/
def encryptLazy (P : Params) (p : Half) (K : RoundKeys) (R : RoundCount) : Half :=
  toBlock ((K.later.take R.toNat).foldl (lazyRound P) (initialState p K))

/-- R184: R lazy rounds, each with K0. -/
def encryptVeryLazy (P : Params) (p : Half) (K : RoundKeys) (R : RoundCount) : Half :=
  toBlock ((List.replicate R.toNat K.k0).foldl (lazyRound P) (initialState p K))

/-- R185. -/
def encrypt (P : Params) (p : Half) (K : RoundKeys) (cc : CipherConfig) : Half :=
  match cc.variant with
  | .standard => encryptStandard P p K cc.rounds
  | .lazy => encryptLazy P p K cc.rounds
  | .veryLazy => encryptVeryLazy P p K cc.rounds

/-- R186: the final round undone with K2, the full round with K1, the initial step with K0. -/
def decrypt (P : Params) (c : Half) (K : RoundKeys) : Half :=
  let st := invSubNibbles P (rowShift (addRoundKey (toState c) K.k2))
  toBlock (addRoundKey (invRound P st K.k1) K.k0)

/-- R187, with the checks in the order of R214. -/
def execEnc (variant : BitVec 2) (rounds : BitVec 3) (p : Half) (s : State) : Result :=
  match configOf variant rounds with
  | none => raise .illegalCommand s
  | some cc => withKeys s fun ks => respond (encrypt s.par p ks cc) s

/-- R180, R189: Standard-2, the only configuration with a decrypt. -/
def standard2 : CipherConfig := { variant := .standard, rounds := .two }

/-- R189, with the checks in the order of R214: a DEC of another configuration is UNSUPPORTED_CONFIG with or without a key. -/
def execDec (variant : BitVec 2) (rounds : BitVec 3) (c : Half) (s : State) : Result :=
  match configOf variant rounds with
  | none => raise .illegalCommand s
  | some cc =>
    if cc = standard2 then withKeys s fun ks => respond (decrypt s.par c ks) s
    else raise .unsupportedConfig s

end Sys2Proof.Machine
end

