-- ==== Sys2Proof/Machine/Status.lean ====
section
/-!
DEFINITION. The status command RDSTAT (spec/46_status.md).
-/

namespace Sys2Proof.Machine

/-- R200: reads the flags and clears nothing. -/
def execRdstat (s : State) : Result := respond (statusData s) s

end Sys2Proof.Machine
end

