-- ==== Sys2Proof/Machine/Dispatch.lean ====
section
/-! DEFINITION. One arm per command, each one call of its meaning (spec/30_encoding.md R64). -/

namespace Sys2Proof.Machine

def exec (i : Instr) (s : State) : Host.Outcome State Fault Refusal :=
  match i with
  | .gfmul x y => Sys2Proof.Machine.execGfmul x y s
  | .sbox n => Sys2Proof.Machine.execSbox n s
  | .isbox n => Sys2Proof.Machine.execIsbox n s
  | .tostate x => Sys2Proof.Machine.execTostate x s
  | .toblock w => Sys2Proof.Machine.execToblock w s
  | .sub2nib x => Sys2Proof.Machine.execSub2nib x s
  | .kexp key => Sys2Proof.Machine.execKexp key s
  | .rdrk index => Sys2Proof.Machine.execRdrk index s
  | .subn w => Sys2Proof.Machine.execSubn w s
  | .isubn w => Sys2Proof.Machine.execIsubn w s
  | .rowsh w => Sys2Proof.Machine.execRowsh w s
  | .colmix w => Sys2Proof.Machine.execColmix w s
  | .icolmix w => Sys2Proof.Machine.execIcolmix w s
  | .addkey w subkey => Sys2Proof.Machine.execAddkey w subkey s
  | .round w subkey => Sys2Proof.Machine.execRound w subkey s
  | .fround w subkey => Sys2Proof.Machine.execFround w subkey s
  | .iround w subkey => Sys2Proof.Machine.execIround w subkey s
  | .enc variant rounds p => Sys2Proof.Machine.execEnc variant rounds p s
  | .dec variant rounds c => Sys2Proof.Machine.execDec variant rounds c s
  | .rdstat => Sys2Proof.Machine.execRdstat s

end Sys2Proof.Machine
end

