-- ==== Sys2Proof/Machine/Port.lean ====
section
/-!
DEFINITION. The core at its port: what one command word, one reset, or no input at all does (spec/70_reset_and_hazards.md
R240, R241, R245, R247).
-/

namespace Sys2Proof.Machine

/-- R69, R211: the word is decoded and its command executed; an illegal word raises ILLEGAL_COMMAND and does nothing else. -/
def runWord (w : CommandWord) (s : State) : Result :=
  match decode w with
  | .ok i => exec i s
  | .error _ => raise .illegalCommand s

/-- R245: one thing the host does. A command that a reset cuts is discarded: no response, none of its writes (R241). -/
def handleEvent (e : HostEvent) (s : State) : Result :=
  match e with
  | .command w => runWord w s
  | .reset => .next s.applyReset
  | .resetDuring _ => .next s.applyReset

/-- R48, R224: the core takes what the host does next, one event a step, or waits for it and keeps its state. DEDUCED
(assumption 6), safe. -/
def takeEvent (s : State) : Result :=
  match s.inputs with
  | [] => .next s
  | e :: rest => handleEvent e { s with inputs := rest }

/-- The host presents `w` as its next command (assumption 1). -/
def State.present (s : State) (w : CommandWord) : State := { s with inputs := .command w :: s.inputs }

end Sys2Proof.Machine
end

