-- ==== Sys2Proof/Machine/Step.lean ====
section
/-!
DEFINITION. One step of the core (spec/20_memory.md R48), and how a word is placed so that the next step runs it. The core
has no program counter and fetches nothing (spec/10_state.md R23): its next instruction is the host's next command.
-/

namespace Sys2Proof.Machine

/-- R48: one event of the host, completely and atomically. -/
def step (s : State) : Host.Outcome State Fault Refusal := takeEvent s

/-- The instruction whose bits are `w`, presented as the host's next command (assumptions 1 and 14). -/
def State.withFetchWord (s : State) (nbits w : Nat) : State := s.present (tableWord nbits w)

end Sys2Proof.Machine
end

