-- ==== Sys2Proof/Safety.lean ====
section
/-!
DEFINITION. What counts as a good run (spec/60_exceptions.md R218, spec/70_reset_and_hazards.md R244, R252): the launch
premises a claim may name, and the claim that a run of command words went right.
-/

namespace Sys2Proof.Machine

/-- R252: no fault is recorded. -/
abbrev NoFault (s : State) : Prop := s.err = .ok

/-- R252: the reset state's RK, RKV and ERR. -/
abbrev Fresh (s : State) : Prop := s.keys = none ∧ s.err = .ok

/-- R252: the round-key file holds `ks`, any five values. -/
abbrev KeysArbitrary (ks : RoundKeys) (s : State) : Prop := s.keys = some ks

/-- R252: the round-key file holds the expansion of `key`. -/
abbrev KeysLoaded (key : Half) (s : State) : Prop := s.keys = some (expand s.par key)

/-- R31: whatever the round-key file holds, some Key expands to it under the machine's tables. -/
abbrev KeysAreExpanded (s : State) : Prop := ∀ ks, s.keys = some ks → ∃ key, ks = expand s.par key

/-- R244: every response of the run has status 0. -/
abbrev AllAnswered (responses : List Response) : Prop := ∀ r ∈ responses, r.status = .ok

end Sys2Proof.Machine
end

