-- ==== Sys2Proof/Spec.lean ====
section
/-!
DEFINITION. The spec's own tables and sentences, written out a second time and independently of the model, for the statements
to compare the model with: the opcode map of spec/30_encoding.md R64, the multiplication table of spec/40_field_arithmetic.md
R102, the fault order of spec/60_exceptions.md R214, and what a command that ends may change.
-/

namespace Sys2Proof.Spec

open Sys2Proof.Machine

/-- R62: `s` after a command that completes with data `d`: one response more, every other field as it was. -/
def answer (s : State) (d : Half) : State := { s with responses := s.responses ++ [{ status := .ok, data := d }] }

/-- R215: `s` after a command that faults with code `c`: the response {c, 0}, ERR set if it was 0, every other field as it
was. -/
def faulted (s : State) (c : FaultCode) : State :=
  { s with
    err := if s.err = .ok then .fault c else s.err
    responses := s.responses ++ [{ status := .fault c, data := 0 }] }

/-- The value constraint of a row of R64. -/
inductive Constraint where
  | free
  /-- R67: bits 34:32 of the word are 0 to 4. -/
  | keyIndex
  /-- R66: bits 34:32 are 1 to 4 and bits 37:36 are 0 to 2. -/
  | config
  deriving DecidableEq, Repr

/-- One row of R64. -/
structure Row where
  pattern : CommandWord
  mask : CommandWord
  constraint : Constraint
  deriving DecidableEq, Repr

/-- R64, the rows 0x01 to 0x08. -/
def unitRows : List Row := [
  ⟨0x010000000000, 0xFFFFFFF0FFF0, .free⟩,
  ⟨0x020000000000, 0xFFFFFFF0FFFF, .free⟩,
  ⟨0x030000000000, 0xFFFFFFF0FFFF, .free⟩,
  ⟨0x040000000000, 0xFFFF0000FFFF, .free⟩,
  ⟨0x050000000000, 0xFFFF0000FFFF, .free⟩,
  ⟨0x060000000000, 0xFFFFFF00FFFF, .free⟩,
  ⟨0x070000000000, 0xFFFF0000FFFF, .free⟩,
  ⟨0x080000000000, 0xFFF8FFFFFFFF, .keyIndex⟩]

/-- R64, the rows 0x10 to 0x18. -/
def roundRows : List Row := [
  ⟨0x100000000000, 0xFFFF0000FFFF, .free⟩,
  ⟨0x110000000000, 0xFFFF0000FFFF, .free⟩,
  ⟨0x120000000000, 0xFFFF0000FFFF, .free⟩,
  ⟨0x130000000000, 0xFFFF0000FFFF, .free⟩,
  ⟨0x140000000000, 0xFFFF0000FFFF, .free⟩,
  ⟨0x150000000000, 0xFFFF00000000, .free⟩,
  ⟨0x160000000000, 0xFFFF00000000, .free⟩,
  ⟨0x170000000000, 0xFFFF00000000, .free⟩,
  ⟨0x180000000000, 0xFFFF00000000, .free⟩]

/-- R64, the rows 0x20, 0x21 and 0x30. -/
def cipherRows : List Row := [
  ⟨0x200000000000, 0xFFC80000FFFF, .config⟩,
  ⟨0x210000000000, 0xFFC80000FFFF, .config⟩,
  ⟨0x300000000000, 0xFFFFFFFFFFFF, .free⟩]

/-- R64. -/
def rows : List Row := unitRows ++ roundRows ++ cipherRows

/-- R66, R67: the constraint holds of the word. -/
def Constraint.holds (w : CommandWord) : Constraint → Bool
  | .free => true
  | .keyIndex => decide (w.toNat / 2 ^ 32 % 8 ≤ 4)
  | .config => decide (1 ≤ w.toNat / 2 ^ 32 % 8 ∧ w.toNat / 2 ^ 32 % 8 ≤ 4 ∧ w.toNat / 2 ^ 36 % 4 ≤ 2)

/-- R64, R69: the word selects a row and meets its constraint. -/
abbrev Legal (w : CommandWord) : Prop :=
  ∃ row ∈ rows, w &&& row.mask = row.pattern ∧ row.constraint.holds w = true

/-- R102: the row of the table for each `a`, its entries for b = 0 to F as hexadecimal digits from left to right. -/
def gfRows : List (BitVec 64) := [
  0x0000000000000000, 0x0123456789ABCDEF, 0x02468ACE3175B9FD, 0x0365CFA9B8DE7412,
  0x048C37BF62EA51D9, 0x05AF72D8EB419C36, 0x06CABD71539FE824, 0x07E9F816DA3425CB,
  0x083B6E5DC4F7A291, 0x09182B3A4D5C6F7E, 0x0A7DE493F5821B6C, 0x0B5EA1F47C29D683,
  0x0CB759E2A61DF348, 0x0D941C852FB63EA7, 0x0EF1D32C97684AB5, 0x0FD2964B1EC3875A]

/-- R102: the entry in row `a`, column `b`. -/
def gfTable (a b : Nibble) : Nibble := ((gfRows.getD a.toNat 0) >>> (60 - 4 * b.toNat)).setWidth 4

/-- R40: the entry of `SBOX` at `n`. -/
def sboxAt (P : Params) (n : Nibble) : Nibble := P.sbox[n.toNat]'n.isLt

/-- R10: the slice w[4i+3 : 4i] of a 16-bit value. -/
def nib (i : Nat) (w : Half) : Nibble := (w >>> (4 * i)).setWidth 4

/-- R10: {a, b, c, d}, `a` in bits 15:12. -/
def pack (a b c d : Nibble) : Half :=
  (a.setWidth 16 <<< 12) ||| (b.setWidth 16 <<< 8) ||| (c.setWidth 16 <<< 4) ||| d.setWidth 16

/-- R10: the slices [15:8] and [7:0] of a 16-bit value. -/
def hi (k : Half) : Byte := (k >>> 8).setWidth 8

/-- R10: see `hi`. -/
def lo (k : Half) : Byte := k.setWidth 8

/-- R130: (SBOX[x[3:0]] << 4) or SBOX[x[7:4]]. -/
def swapSub (P : Params) (x : Byte) : Byte :=
  ((sboxAt P (x.setWidth 4)).setWidth 8 <<< 4) ||| (sboxAt P ((x >>> 4).setWidth 4)).setWidth 8

/-- R72: `$`, the data of the response that command `i` gives in state `s`. -/
def data (i : Instr) (s : State) : Half :=
  match exec i s with
  | .next t => (t.responses.getLast?.map Response.data).getD 0
  | .fault _ => 0
  | .refused _ => 0

/-- R210, R214: the status of the response to `i`: decode, then configuration, then key presence. -/
def verdict (i : Instr) (s : State) : Status :=
  if i.wellFormed = false then .fault .illegalCommand
  else
    match i with
    | .dec variant rounds _ =>
      if ¬(variant = 0 ∧ rounds = 2) then .fault .unsupportedConfig
      else if s.keys = none then .fault .noKey
      else .ok
    | .rdrk _ => if s.keys = none then .fault .noKey else .ok
    | .enc _ _ _ => if s.keys = none then .fault .noKey else .ok
    | _ => .ok

/-- R187, R137, R189: the three commands that read RK. -/
def readsKeys : Instr → Bool
  | .rdrk _ => true
  | .enc _ _ _ => true
  | .dec _ _ _ => true
  | _ => false

/-- R183: one lazy round as unit commands: SUBN, with LAZY_ROWSHIFT also ROWSH, then ADDKEY. -/
def lazyStep (s : State) (st k : Half) : Half :=
  let substituted := data (.subn st) s
  data (.addkey (if s.par.lazyRowShift then data (.rowsh substituted) s else substituted) k) s

/-- R183, R184: the initial K0 step, then one lazy round for each key of the list, between TOSTATE and TOBLOCK. -/
def lazyChain (s : State) (k0 p : Half) (keys : List Half) : Half :=
  data (.toblock (keys.foldl (lazyStep s) (data (.addkey (data (.tostate p) s) k0) s))) s

/-- R182: the initial K0 step, then a full round for each key of the list, then the final round, as unit commands. -/
def standardChain (s : State) (k0 p : Half) (full : List Half) (last : Half) : Half :=
  let start := data (.addkey (data (.tostate p) s) k0) s
  data (.toblock (data (.fround (full.foldl (fun st k => data (.round st k) s) start) last) s)) s

/-- R210: the number of a fault code; 0 is OK or no fault recorded. -/
def number : Status → Nat
  | .ok => 0
  | .fault .illegalCommand => 1
  | .fault .unsupportedConfig => 2
  | .fault .noKey => 3

/-- R245: the host's next action is a reset, between commands or during one. -/
def resetNext (s : State) : Prop :=
  ∃ rest, s.inputs = .reset :: rest ∨ ∃ w, s.inputs = .resetDuring w :: rest

/-- R25, R210: ERR after a run that gave these statuses, from ERR = 0: the first that is not OK. -/
def firstFault : List Response → Status
  | [] => .ok
  | r :: rest => if r.status = .ok then firstFault rest else r.status

end Sys2Proof.Spec
end

