-- ==== Sys2Proof/Certificates/Slice0/Obligations.lean ====
section
/-!
DEFINITION. The statements for the provers, each from a numbered rule of spec/. `answer s d` is `s` with one OK response added
and EVERY other field as it was, `faulted s c` the same with ERR set if it was 0: a conclusion `exec i s = .next (answer s d)`
therefore gives the result, the completion and the frame at once. The core has no memory, so no frame speaks of one.
-/

open Sys2Proof Sys2Proof.Machine Sys2Proof.Spec

/-! ## Encoding (spec/30_encoding.md) -/

/-- R69, R74: decoding undoes encoding on every well-formed command, at every operand value; an ill-formed one has no legal
word. -/
def Obligations.DecodeUndoesEncode : Prop :=
  ∀ i : Instr, decode (encode i) = if i.wellFormed then .ok i else .error .reservedOperand

/-- R65: a word with a row's opcode and a must-be-zero bit set is illegal; a legal command has exactly one word, and encoding
after decoding is the identity. -/
def Obligations.MustBeZeroBitsAndUniqueEncoding : Prop :=
  (∀ w : CommandWord, ∀ row ∈ rows, w >>> 40 = row.pattern >>> 40 → w &&& row.mask ≠ row.pattern →
      ∃ r, decode w = .error r) ∧
    (∀ (w : CommandWord) (i : Instr), decode w = .ok i → encode i = w) ∧
    (∀ (w v : CommandWord) (i : Instr), decode w = .ok i → decode v = .ok i → w = v)

/-- R64, R66, R67, R69, R70: exactly the words that select a row of R64 and meet its constraint are decoded, and only to
well-formed commands. -/
def Obligations.LegalWordsAreTheRowsOfTheMap : Prop :=
  ∀ w : CommandWord, (Legal w ↔ ∃ i, decode w = .ok i) ∧ ∀ i, decode w = .ok i → i.wellFormed = true

/-- R64, R72, R74 and the `Example` lines of the command rules: words the spec writes out, read as it says. -/
def Obligations.SpecWordsDecode : Prop :=
  decode 0x010000040009 = .ok (.gfmul 4 9) ∧
    decode 0x0200000A0000 = .ok (.sbox 0xA) ∧
    decode 0x040012340000 = .ok (.tostate 0x1234) ∧
    decode 0x060000270000 = .ok (.sub2nib 0x27) ∧
    decode 0x0700A73B0000 = .ok (.kexp 0xA73B) ∧
    decode 0x080200000000 = .ok (.rdrk 2) ∧
    decode 0x160012341C27 = .ok (.round 0x1234 0x1C27) ∧
    decode 0x20026F6B0000 = .ok (.enc 0 2 0x6F6B) ∧
    decode 0x211207380000 = .ok (.dec 1 2 0x0738) ∧
    decode 0x300000000000 = .ok .rdstat

/-! ## The step, the port and reset -/

/-- R48, R69: when the host's next action is a command whose word decodes to `i`, the step takes the action off the list and
is `exec i`. The list of the host's actions is the model's choice (assumption 1). -/
def Obligations.StepRunsTheDecodedCommand : Prop :=
  ∀ (s : State) (w : CommandWord) (rest : List HostEvent) (i : Instr),
    s.inputs = .command w :: rest → decode w = .ok i → step s = exec i { s with inputs := rest }

/-- R69, R70, R74: presenting the word of any command, an ill-formed one too, gives what `exec` gives for it. What `exec` gives for an ill-formed
command is the model's reading (assumption 13). -/
def Obligations.StepOfAnEncodedCommandIsExec : Prop :=
  ∀ (s : State) (i : Instr), step (s.present (encode i)) = exec i s

/-- R211: every word that is not a legal encoding raises ILLEGAL_COMMAND, with no other effect; no legal word ever does. -/
def Obligations.IllegalCommandExactlyForIllegalWords : Prop :=
  ∀ (s : State) (w : CommandWord) (rest : List HostEvent), s.inputs = .command w :: rest →
    (¬ Legal w → step s = .next (faulted { s with inputs := rest } .illegalCommand)) ∧
      (Legal w → ∃ t r, step s = .next t ∧ t.responses = s.responses ++ [r] ∧ r.status ≠ .fault .illegalCommand)

/-- R215, R216: whatever command faults, with whatever code, the response is {c, 0}, ERR keeps a first fault, and nothing else
is written. -/
def Obligations.FaultingCommandWritesOnlyErr : Prop :=
  ∀ (s t : State) (w : CommandWord) (rest : List HostEvent) (r : Response) (c : FaultCode),
    s.inputs = .command w :: rest → step s = .next t → t.responses = s.responses ++ [r] → r.status = .fault c →
      t = faulted { s with inputs := rest } c

/-- R62, R250: the core always answers: every step gives a next state, a command gets exactly one response, anything else
none, and the parameters stay. The lists of actions and responses and the parameters in the state are the model's
choice (assumptions 1, 2). -/
def Obligations.StepAlwaysAnswers : Prop :=
  ∀ s : State, ∃ t, step s = .next t ∧ t.par = s.par ∧ t.inputs = s.inputs.tail ∧
    (∀ w rest, s.inputs = .command w :: rest → ∃ r, t.responses = s.responses ++ [r]) ∧
    ((∀ w rest, s.inputs ≠ .command w :: rest) → t.responses = s.responses)

/-- R240, R241: reset clears RKV and ERR and RK loses its values, between commands and during any one, whose response and
writes are lost; the tables and the responses already given stay. That the
host's other actions stay, too, is the model's choice (assumptions 1, 10). -/
def Obligations.ResetEventClearsTheFlags : Prop :=
  ∀ (s : State) (w : CommandWord) (rest : List HostEvent),
    (s.inputs = .reset :: rest → step s = .next { s with keys := none, err := .ok, inputs := rest }) ∧
      (s.inputs = .resetDuring w :: rest → step s = .next { s with keys := none, err := .ok, inputs := rest })

/-- R224 (the model's reading, assumption 6): with no command presented the core waits and keeps its state. -/
def Obligations.IdleCoreKeepsItsState : Prop :=
  ∀ s : State, s.inputs = [] → step s = .next s

/-- R28, R30: after reset RKV = 0, ERR = 0 and RK holds no value. The `none` is the type of R31 (assumption 7). -/
def Obligations.ResetValues : Prop :=
  State.reset.keys = none ∧ State.reset.rkv = false ∧ State.reset.err = .ok ∧ State.reset.err.code = 0

/-! ## Faults and flags -/

/-- R210, R212 to R214, R222: a command that the fault order of R214 finds at fault does exactly what R215 says; every other
command but KEXP answers with status 0 and changes nothing else. Which command raises which is an
inference the spec marks as its own (R222, "[derived: from rules R211 to R213 and the command rules]"). What `exec` gives for an
ill-formed command is the model's reading (assumption 13). -/
def Obligations.FaultOrderDecidesTheOutcome : Prop :=
  ∀ (i : Instr) (s : State),
    (∀ c, verdict i s = .fault c → exec i s = .next (faulted s c)) ∧
      (verdict i s = .ok → (∀ key, i ≠ .kexp key) → ∃ d, exec i s = .next (answer s d))

/-- R212: DEC with each of the eleven legal configurations other than S2 raises UNSUPPORTED_CONFIG, whatever the state, and
no other command ever does. -/
def Obligations.UnsupportedConfigExactlyForDec : Prop :=
  (∀ (v : BitVec 2) (r : BitVec 3) (c : Half) (s : State), (Instr.dec v r c).wellFormed = true → ¬(v = 0 ∧ r = 2) →
      exec (.dec v r c) s = .next (faulted s .unsupportedConfig)) ∧
    ∀ (i : Instr) (s t : State) (d : Half), exec i s = .next t →
      t.responses = s.responses ++ [{ status := .fault .unsupportedConfig, data := d }] →
        ∃ v r c, i = .dec v r c ∧ ¬(v = 0 ∧ r = 2)

/-- R30, R213: the commands that would read RK while RKV = 0 raise NO_KEY instead, in every legal form. -/
def Obligations.KeyReadersRaiseNoKeyBeforeKexp : Prop :=
  ∀ (i : Instr) (s : State), i.wellFormed = true → s.keys = none →
    ((∃ index, i = .rdrk index) ∨ (∃ v r p, i = .enc v r p) ∨ (∃ c, i = .dec 0 2 c)) →
      exec i s = .next (faulted s .noKey)

/-- R24, R25, R240: ERR, once non-zero, keeps its value in every step but a reset. -/
def Obligations.FirstFaultStaysUntilReset : Prop :=
  ∀ s t : State, step s = .next t → s.err ≠ .ok → t.err = s.err ∨ (t.err = .ok ∧ resetNext s)

/-- R25, R218: ERR influences no command but RDSTAT: with any other ERR the response and the round keys are the same. -/
def Obligations.ErrInfluencesNoOtherCommand : Prop :=
  ∀ (i : Instr) (s : State) (e : Status), i ≠ .rdstat →
    ∃ t u r, exec i s = .next t ∧ exec i { s with err := e } = .next u ∧
      t.responses = s.responses ++ [r] ∧ u.responses = s.responses ++ [r] ∧ t.keys = u.keys

/-- R200: RDSTAT returns ERR in bits 3:0 and RKV in bit 4, and clears nothing. -/
def Obligations.RdstatReportsTheFlags : Prop :=
  ∀ s : State, exec .rdstat s =
    .next (answer s (BitVec.ofNat 16 ((if s.keys = none then 0 else 16) + number s.err)))

/-- R62, R210: the response word is the status in bits 19:16 and the data in bits 15:0. -/
def Obligations.ResponseWordLayout : Prop :=
  ∀ r : Response, r.word.toNat = number r.status * 65536 + r.data.toNat

/-- R218, R244: a run of any command words from ERR = 0 ends with one response for each word, ERR the first status that is
not OK, so ERR = 0 at the end exactly when every response has status 0. -/
def Obligations.RunRecordsItsFirstFault : Prop :=
  ∀ (s : State) (ws : List CommandWord),
    s.inputs = ws.map HostEvent.command → s.responses = [] → s.err = .ok →
      ∃ t : State, Host.Core.run Sys2Proof.core ws.length s = .next t ∧ t.inputs = [] ∧
        t.responses.length = ws.length ∧ t.err = firstFault t.responses ∧
        (t.err = .ok ↔ AllAnswered t.responses)

/-- R24, R25, R218: that ERR is the first fault among the responses given is kept by every step but a reset, which clears ERR
and leaves the responses. The list of responses in the state is the model's choice (assumption 1), as is what a reset does to it
(assumption 10). -/
def Obligations.ErrStaysTheFirstFault : Prop :=
  ∀ s t : State, ¬ resetNext s → s.err = firstFault s.responses → step s = .next t → t.err = firstFault t.responses

/-- R28, R218: at reset ERR is the first fault among the responses given, of which there are none (assumption 1). -/
def Obligations.ErrIsTheFirstFaultAtReset : Prop := State.reset.err = firstFault State.reset.responses

/-! ## The round-key file -/

/-- R22, R29: in any step RK and RKV stay, or a KEXP replaces all five from its key, or a reset takes their values. -/
def Obligations.RoundKeysChangeOnlyByKexpOrReset : Prop :=
  ∀ s t : State, step s = .next t →
    t.keys = s.keys ∨ (t.keys = none ∧ resetNext s) ∨
      ∃ key rest, s.inputs = .command (encode (.kexp key)) :: rest ∧ t.keys = some (expand s.par key)

/-- R31: that the round-key file, where it holds values, is the expansion of some key is kept by every step. An inference the
spec marks as its own ("[derived: from rule R22 and ... rule R135]"). -/
def Obligations.KeysStayExpanded : Prop :=
  ∀ s t : State, KeysAreExpanded s → step s = .next t → KeysAreExpanded t

/-- R31: and it holds at reset. -/
def Obligations.KeysAreExpandedAtReset : Prop := KeysAreExpanded State.reset

/-- R131, R132: KEXP loads K0 = key and four round keys by the word recurrence, each even word the high half, and answers
with data 0; nothing else changes. -/
def Obligations.KexpLoadsTheKeySchedule : Prop :=
  ∀ (s : State) (key : Half), ∃ ks : RoundKeys,
    exec (.kexp key) s = .next (answer { s with keys := some ks } 0) ∧ ks.k0 = key ∧
      hi ks.k1 = hi ks.k0 ^^^ s.par.rcon1 ^^^ swapSub s.par (lo ks.k0) ∧ lo ks.k1 = hi ks.k1 ^^^ lo ks.k0 ∧
      hi ks.k2 = hi ks.k1 ^^^ s.par.rcon2 ^^^ swapSub s.par (lo ks.k1) ∧ lo ks.k2 = hi ks.k2 ^^^ lo ks.k1 ∧
      hi ks.k3 = hi ks.k2 ^^^ s.par.rcon3 ^^^ swapSub s.par (lo ks.k2) ∧ lo ks.k3 = hi ks.k3 ^^^ lo ks.k2 ∧
      hi ks.k4 = hi ks.k3 ^^^ s.par.rcon4 ^^^ swapSub s.par (lo ks.k3) ∧ lo ks.k4 = hi ks.k4 ^^^ lo ks.k3

/-- R133: the RoundKeySet is a function of the key and the tables alone, whatever was loaded before, and different keys give
different RoundKeySets. Injectivity is an inference the spec marks as its own ("[derived: from rule R132]"). -/
def Obligations.KexpIsAFunctionOfTheKeyAndInjective : Prop :=
  ∀ (s s' t t' : State) (key key' : Half), s.par = s'.par →
    exec (.kexp key) s = .next t → exec (.kexp key') s' = .next t' → (t.keys = t'.keys ↔ key = key')

/-- R137: RDRK returns the round key its index names. -/
def Obligations.RdrkReturnsTheNamedKey : Prop :=
  ∀ (s : State) (ks : RoundKeys), s.keys = some ks →
    exec (.rdrk 0) s = .next (answer s ks.k0) ∧ exec (.rdrk 1) s = .next (answer s ks.k1) ∧
      exec (.rdrk 2) s = .next (answer s ks.k2) ∧ exec (.rdrk 3) s = .next (answer s ks.k3) ∧
      exec (.rdrk 4) s = .next (answer s ks.k4)

/-- R67, R70, R137: an index of 5 to 7 is illegal whether or not keys are loaded. The rules say it of the word; that `exec`
of the command, which no word decodes to, gives the same is the model's reading (assumption 13). -/
def Obligations.RdrkBeyondFourIsIllegal : Prop :=
  ∀ (s : State) (index : BitVec 3), 5 ≤ index.toNat → exec (.rdrk index) s = .next (faulted s .illegalCommand)

/-! ## The multiplier and the S-box -/

/-- R102: GFMUL returns the entry of the multiplication table, zero-extended. The table is an inference the spec
marks as its own ("[derived: from rule R101]"). -/
def Obligations.GfmulReturnsTheTableEntry : Prop :=
  ∀ (a b : Nibble) (s : State), exec (.gfmul a b) s = .next (answer s ((gfTable a b).setWidth 16))

/-- R104: the laws of the multiplier. The laws after the first four are an inference the spec marks as its own
("[derived: from rule R100 and rule R102, each checkable by enumeration of at most 4096 cases]"). -/
def Obligations.GfmulFieldLaws : Prop :=
  (∀ a : Nibble, gfMul a 0 = 0 ∧ gfMul a 1 = a ∧ gfMul 0 a = 0 ∧ gfMul 1 a = a) ∧
    (∀ a b : Nibble, gfMul a b = gfMul b a) ∧
    (∀ a b c : Nibble, gfMul a (b ^^^ c) = gfMul a b ^^^ gfMul a c) ∧
    (∀ a b c : Nibble, gfMul (gfMul a b) c = gfMul a (gfMul b c)) ∧
    (∀ a : Nibble, a ≠ 0 → ∃ b, gfMul a b = 1 ∧ ∀ c, gfMul a c = 1 → c = b) ∧
    (∀ a b : Nibble, gfMul a b = 0 → a = 0 ∨ b = 0) ∧
    gfMul 4 9 = 2 ∧ (9 : Nibble) ^^^ gfMul 4 2 = 1

/-- R112: SBOX returns the table's entry, zero-extended. -/
def Obligations.SboxReturnsTheTableEntry : Prop :=
  ∀ (n : Nibble) (s : State), exec (.sbox n) s = .next (answer s ((sboxAt s.par n).setWidth 16))

/-- R41, R110, R113: ISBOX returns the one nibble that SBOX maps to its operand; so each undoes the other. -/
def Obligations.IsboxIsTheInverseTable : Prop :=
  ∀ (n : Nibble) (s : State),
    (∃ m : Nibble, exec (.isbox n) s = .next (answer s (m.setWidth 16)) ∧
        exec (.sbox m) s = .next (answer s (n.setWidth 16)) ∧ ∀ m', sboxAt s.par m' = n → m' = m) ∧
      exec (.isbox (sboxAt s.par n)) s = .next (answer s (n.setWidth 16))

/-! ## The codec -/

/-- R120, R121, R123, R124: TOSTATE and TOBLOCK swap the two middle nibbles. -/
def Obligations.CodecCommandsSwapTheMiddleNibbles : Prop :=
  ∀ (x : Half) (s : State),
    exec (.tostate x) s = .next (answer s (pack (nib 3 x) (nib 1 x) (nib 2 x) (nib 0 x))) ∧
      exec (.toblock x) s = .next (answer s (pack (nib 3 x) (nib 1 x) (nib 2 x) (nib 0 x)))

/-- R122: the two codec functions are inverse to each other, are the same map on 16-bit buses, which is its own inverse, and
commute with xor. Beside the first equation these are inferences the spec marks as its own ("[derived: from rule R120 and rule
R121]", "[derived: they only move bits]"). -/
def Obligations.CodecIsAnInvolution : Prop :=
  (∀ x : Half, toBlock (toState x) = x) ∧
    (∀ st : Nibbles, toState (toBlock st) = st) ∧
    (∀ x : Half, sw (toState x) = pack (nib 3 x) (nib 1 x) (nib 2 x) (nib 0 x) ∧ toBlock (unsw x) = sw (toState x) ∧
      sw (toState (sw (toState x))) = x) ∧
    (∀ x y : Half, sw (toState (x ^^^ y)) = sw (toState x) ^^^ sw (toState y)) ∧
    ∀ x y : Half, toBlock (unsw (x ^^^ y)) = toBlock (unsw x) ^^^ toBlock (unsw y)

/-- R130, R134: SUB2NIB substitutes both nibbles of the byte and swaps them. -/
def Obligations.Sub2nibSubstitutesAndSwaps : Prop :=
  ∀ (x : Byte) (s : State), exec (.sub2nib x) s = .next (answer s ((swapSub s.par x).setWidth 16))

/-! ## The round function -/

/-- R151: SUBN substitutes every nibble of the state word, and ISUBN answers with the word that SUBN maps to its operand; each
undoes the other. That they are inverse is an inference the spec marks as its own ("[derived: from 20_memory.md rule R41]"). -/
def Obligations.SubnAndIsubnAreInverse : Prop :=
  ∀ (w : Half) (s : State),
    exec (.subn w) s = .next (answer s (pack (sboxAt s.par (nib 3 w)) (sboxAt s.par (nib 2 w))
      (sboxAt s.par (nib 1 w)) (sboxAt s.par (nib 0 w)))) ∧
    (∃ v, exec (.isubn w) s = .next (answer s v) ∧ exec (.subn v) s = .next (answer s w)) ∧
    exec (.isubn (data (.subn w) s)) s = .next (answer s w)

/-- R152: ROWSH swaps positions 2 and 3, the two low nibbles of the state word, and undoes itself. -/
def Obligations.RowshSwapsTheLowNibbles : Prop :=
  ∀ (w : Half) (s : State),
    exec (.rowsh w) s = .next (answer s (pack (nib 3 w) (nib 2 w) (nib 0 w) (nib 1 w))) ∧
      exec (.rowsh (data (.rowsh w) s)) s = .next (answer s w)

/-- R153: COLMIX, each position computed from the operand's nibbles, with row 4 of the multiplication table. That the
operand's own nibbles are used throughout is an inference the spec marks as its own ("[derived: only the simultaneous reading is
inverted by rule R154, see rule R155]"). -/
def Obligations.ColmixMixesByFour : Prop :=
  ∀ (w : Half) (s : State), exec (.colmix w) s = .next (answer s (pack
    (nib 3 w ^^^ gfTable 4 (nib 1 w)) (nib 2 w ^^^ gfTable 4 (nib 0 w))
    (nib 1 w ^^^ gfTable 4 (nib 3 w)) (nib 0 w ^^^ gfTable 4 (nib 2 w))))

/-- R154: ICOLMIX, with rows 9 and 2 of the multiplication table. Three of the four equations are an
inference the spec marks as its own ("[derived: from rule R153 and rule R155 ...]"). -/
def Obligations.IcolmixMixesByNineAndTwo : Prop :=
  ∀ (w : Half) (s : State), exec (.icolmix w) s = .next (answer s (pack
    (gfTable 9 (nib 3 w) ^^^ gfTable 2 (nib 1 w)) (gfTable 9 (nib 2 w) ^^^ gfTable 2 (nib 0 w))
    (gfTable 9 (nib 1 w) ^^^ gfTable 2 (nib 3 w)) (gfTable 9 (nib 0 w) ^^^ gfTable 2 (nib 2 w))))

/-- R155: the two column mixes undo each other, as functions and as commands. An inference the spec marks as its
own ("[derived: the matrix product ...; also checked by enumeration of all 65536 States]"). -/
def Obligations.ColumnMixesAreInverse : Prop :=
  (∀ st : Nibbles, invColumnMix (columnMix st) = st ∧ columnMix (invColumnMix st) = st) ∧
    ∀ (w : Half) (s : State),
      exec (.icolmix (data (.colmix w) s)) s = .next (answer s w) ∧
        exec (.colmix (data (.icolmix w) s)) s = .next (answer s w)

/-- R156, R165: ADDKEY xors the state word with the subkey read through the codec, undoes itself, and on Blocks is the plain
xor. The last is an inference the spec marks as its own ("[derived: from 42_state_codec.md rule R122]"). -/
def Obligations.AddkeyXorsTheDecodedSubkey : Prop :=
  ∀ (w k : Half) (s : State),
    exec (.addkey w k) s = .next (answer s (w ^^^ pack (nib 3 k) (nib 1 k) (nib 2 k) (nib 0 k))) ∧
      exec (.addkey (data (.addkey w k) s) k) s = .next (answer s w) ∧
      ∀ st : Nibbles, toBlock (addRoundKey st k) = toBlock st ^^^ k

/-- R157, R158: ROUND and FROUND are the sequences of their step commands. -/
def Obligations.RoundsAreTheirStepCommands : Prop :=
  ∀ (w k : Half) (s : State),
    exec (.round w k) s = .next (answer s
      (data (.addkey (data (.colmix (data (.rowsh (data (.subn w) s)) s)) s) k) s)) ∧
    exec (.fround w k) s = .next (answer s (data (.addkey (data (.rowsh (data (.subn w) s)) s) k) s))

/-- R159: IROUND is the sequence of its step commands, and undoes ROUND and is undone by it under the same subkey; ADDKEY,
ROWSH, ISUBN undo FROUND. That they are inverse is an inference the spec marks as its own ("[derived: from rules R151, R152,
R155, R156, each step undone in reverse order]"). -/
def Obligations.IroundUndoesRound : Prop :=
  ∀ (w k : Half) (s : State),
    exec (.iround w k) s = .next (answer s
      (data (.isubn (data (.rowsh (data (.icolmix (data (.addkey w k) s)) s)) s)) s)) ∧
    exec (.iround (data (.round w k) s) k) s = .next (answer s w) ∧
    exec (.round (data (.iround w k) s) k) s = .next (answer s w) ∧
    exec (.isubn (data (.rowsh (data (.addkey (data (.fround w k) s) k) s)) s)) s = .next (answer s w)

/-- R13, R27, R243, R249: the fifteen commands that touch no state (all but KEXP, RDRK, ENC, DEC and RDSTAT) answer the same,
with status 0, whatever RK, RKV and ERR hold; and KEXP, whatever they hold, answers 0 and loads the same five round keys. An
inference the spec marks as its own ("[derived: from the `State read` line of each command rule]"). -/
def Obligations.UnitCommandsIgnoreTheState : Prop :=
  ∀ (s : State) (keys : Option RoundKeys) (e : Status),
    (∀ i : Instr, readsKeys i = false → i ≠ .rdstat → (∀ key, i ≠ .kexp key) →
      ∃ d, exec i s = .next (answer s d) ∧
        exec i { s with keys := keys, err := e } = .next (answer { s with keys := keys, err := e } d)) ∧
    ∀ key : Half, ∃ ks : RoundKeys,
      exec (.kexp key) s = .next (answer { s with keys := some ks } 0) ∧
        exec (.kexp key) { s with keys := keys, err := e } = .next (answer { s with keys := some ks, err := e } 0)

/-- R13, R27: a command's response and the RK, RKV and ERR it leaves depend on the command, RK, RKV, ERR and the tables and
on nothing else. -/
def Obligations.NothingHiddenInfluencesACommand : Prop :=
  ∀ (i : Instr) (s s' : State), s.keys = s'.keys → s.err = s'.err → s.par = s'.par →
    ∃ t t' r, exec i s = .next t ∧ exec i s' = .next t' ∧ t.responses = s.responses ++ [r] ∧
      t'.responses = s'.responses ++ [r] ∧ t.keys = t'.keys ∧ t.err = t'.err

/-! ## The cipher pipeline -/

/-- R182: ENC under Standard with R = 1 to 4 is the initial K0 step, R - 1 full rounds with K1..K(R-1) and a final round with
K_R, as unit commands. -/
def Obligations.EncStandardIsItsRounds : Prop :=
  ∀ (s : State) (ks : RoundKeys) (p : Half), s.keys = some ks →
    exec (.enc 0 1 p) s = .next (answer s (standardChain s ks.k0 p [] ks.k1)) ∧
      exec (.enc 0 2 p) s = .next (answer s (standardChain s ks.k0 p [ks.k1] ks.k2)) ∧
      exec (.enc 0 3 p) s = .next (answer s (standardChain s ks.k0 p [ks.k1, ks.k2] ks.k3)) ∧
      exec (.enc 0 4 p) s = .next (answer s (standardChain s ks.k0 p [ks.k1, ks.k2, ks.k3] ks.k4))

/-- R183: ENC under Lazy with R = 1 to 4 is the initial K0 step and R lazy rounds with K1..K_R, for either value of
LAZY_ROWSHIFT. That R rounds use K1..K_R after the initial K0 step is an inference the spec marks as its own ("[derived:
"successive" keys, one per round, R rounds ...]", decision D17). -/
def Obligations.EncLazyIsItsRounds : Prop :=
  ∀ (s : State) (ks : RoundKeys) (p : Half), s.keys = some ks →
    exec (.enc 1 1 p) s = .next (answer s (lazyChain s ks.k0 p [ks.k1])) ∧
      exec (.enc 1 2 p) s = .next (answer s (lazyChain s ks.k0 p [ks.k1, ks.k2])) ∧
      exec (.enc 1 3 p) s = .next (answer s (lazyChain s ks.k0 p [ks.k1, ks.k2, ks.k3])) ∧
      exec (.enc 1 4 p) s = .next (answer s (lazyChain s ks.k0 p [ks.k1, ks.k2, ks.k3, ks.k4]))

/-- R184: ENC under VeryLazy is the same with K0 in every round. -/
def Obligations.EncVeryLazyReusesTheFirstKey : Prop :=
  ∀ (s : State) (ks : RoundKeys) (p : Half), s.keys = some ks →
    exec (.enc 2 1 p) s = .next (answer s (lazyChain s ks.k0 p [ks.k0])) ∧
      exec (.enc 2 2 p) s = .next (answer s (lazyChain s ks.k0 p [ks.k0, ks.k0])) ∧
      exec (.enc 2 3 p) s = .next (answer s (lazyChain s ks.k0 p [ks.k0, ks.k0, ks.k0])) ∧
      exec (.enc 2 4 p) s = .next (answer s (lazyChain s ks.k0 p [ks.k0, ks.k0, ks.k0, ks.k0]))

/-- R186, R189: DEC under Standard-2 undoes the final round with K2, the full round with K1 and the initial step with K0, as
unit commands. An inference the spec marks as its own ("Undoing encrypt_standard(., K, 2) ... step by step in reverse [derived:
from rule R182 and ...]"). -/
def Obligations.DecIsTheInverseSteps : Prop :=
  ∀ (s : State) (ks : RoundKeys) (c : Half), s.keys = some ks →
    exec (.dec 0 2 c) s = .next (answer s
      (data (.toblock (data (.addkey (data (.iround (data (.isubn (data (.rowsh
        (data (.addkey (data (.tostate c) s) ks.k2) s)) s)) s) ks.k1) s) ks.k0) s)) s))

/-- R186, R188: for every bijective SBOX, every RCON, every five round keys and every Block, DEC S2 of the data of ENC S2 gives
the plaintext back, and ENC S2 of the data of DEC S2 the ciphertext. An inference the spec marks as its own ("[derived: from rules
R182, R186]"). -/
def Obligations.DecryptionInvertsStandardTwo : Prop :=
  ∀ (s : State) (ks : RoundKeys), s.keys = some ks →
    (∀ p : Half, ∃ c, exec (.enc 0 2 p) s = .next (answer s c) ∧ exec (.dec 0 2 c) s = .next (answer s p)) ∧
      ∀ c : Half, ∃ p, exec (.dec 0 2 c) s = .next (answer s p) ∧ exec (.enc 0 2 p) s = .next (answer s c)

/-- R185: for fixed round keys and each of the twelve configurations ENC is a bijection on Blocks: no two plaintexts give one
ciphertext, and every Block is one. An inference the spec marks as its own ("[derived: every step is a bijection ...]"). -/
def Obligations.EncIsABijectionOnBlocks : Prop :=
  ∀ (s : State) (ks : RoundKeys) (v : BitVec 2) (r : BitVec 3), s.keys = some ks →
    (Instr.enc v r 0).wellFormed = true →
      (∀ p q : Half, data (.enc v r p) s = data (.enc v r q) s → p = q) ∧
        ∀ c : Half, ∃ p : Half, exec (.enc v r p) s = .next (answer s c)

/-- R181: the entries a configuration does not consume do not influence its ciphertext. An
inference the spec marks as its own ("[derived: from rules R182 to R184]"). -/
def Obligations.UnusedRoundKeysDoNotMatter : Prop :=
  ∀ (s s' : State) (ks ks' : RoundKeys) (p : Half), s.keys = some ks → s' = { s with keys := some ks' } → ks.k0 = ks'.k0 →
    (∀ r : BitVec 3, data (.enc 2 r p) s = data (.enc 2 r p) s') ∧
      (ks.k1 = ks'.k1 →
        (data (.enc 0 1 p) s = data (.enc 0 1 p) s' ∧ data (.enc 1 1 p) s = data (.enc 1 1 p) s') ∧
        (ks.k2 = ks'.k2 →
          (data (.enc 0 2 p) s = data (.enc 0 2 p) s' ∧ data (.enc 1 2 p) s = data (.enc 1 2 p) s' ∧
            data (.dec 0 2 p) s = data (.dec 0 2 p) s') ∧
          (ks.k3 = ks'.k3 →
            data (.enc 0 3 p) s = data (.enc 0 3 p) s' ∧ data (.enc 1 3 p) s = data (.enc 1 3 p) s')))

/-- R190: with LAZY_ROWSHIFT, L1 equals S1, since one lazy round is then a final round. The spec's sentence: "L1 then
equals S1, as it must: one lazy round with RowShift is a final round" [derived]. -/
def Obligations.LazyOneWithRowShiftIsStandardOne : Prop :=
  ∀ (s : State) (p : Half), s.par.lazyRowShift = true → data (.enc 1 1 p) s = data (.enc 0 1 p) s

/-- R183, R184 (the remark in spec/95_test_vectors.md section 2.6): without LAZY_ROWSHIFT a Lazy or VeryLazy encryption acts on
each nibble of the Block separately. An inference the spec marks as its own ("[derived: 45_cipher_pipeline.md rules R183,
R184 act on each nibble separately]"). -/
def Obligations.LazyCiphersActNibblewise : Prop :=
  ∀ (s : State) (ks : RoundKeys) (v : BitVec 2) (r : BitVec 3) (j : Nat) (p q : Half),
    s.keys = some ks → s.par.lazyRowShift = false → (v = 1 ∨ v = 2) → (Instr.enc v r p).wellFormed = true → j < 4 →
      nib j p = nib j q → nib j (data (.enc v r p) s) = nib j (data (.enc v r q) s)
end

