-- ==== Sys2Proof/Laws/Decode.lean ====
section
/-!
SUPPORT. The four fields of a word and the word of four fields determine each other, and the two small steps of decoding.
-/

namespace Sys2Proof

theorem fieldsOf_word (f : Fields) : fieldsOf f.word = f := by
  obtain ⟨op, cfg, a, b⟩ := f
  simp only [fieldsOf, Fields.word, Fields.mk.injEq]
  refine ⟨?_, ?_, ?_, ?_⟩ <;>
    (apply BitVec.eq_of_getLsbD_eq
     intro i hi
     simp only [BitVec.getLsbD_extractLsb', BitVec.getLsbD_cast, BitVec.getLsbD_append]
     grind)

theorem word_fieldsOf (w : CommandWord) : (fieldsOf w).word = w := by
  ext i hi
  simp only [fieldsOf, Fields.word, BitVec.getElem_cast, BitVec.getElem_append, BitVec.getElem_extractLsb']
  simp only [← BitVec.getLsbD_eq_getElem]
  split
  · simp
  · split
    · congr 1; omega
    · split
      · congr 1; omega
      · congr 1; omega

/-- A word whose fields are equal is the same word. -/
theorem fieldsOf_injective {w v : CommandWord} (h : fieldsOf w = fieldsOf v) : w = v := by
  rw [← word_fieldsOf w, ← word_fieldsOf v, h]

theorem ifZero_eq_ok {z : Bool} {i j : Instr} : ifZero z i = .ok j ↔ z = true ∧ i = j := by
  cases z <;> simp [ifZero]

theorem checkOperands_eq_ok {i j : Instr} : checkOperands i = .ok j ↔ i.wellFormed = true ∧ i = j := by
  unfold checkOperands
  split <;> simp_all

/-- A word is decoded exactly when its fields have a row's shape and the operands are legal. -/
theorem decode_eq_ok {w : CommandWord} {i : Instr} :
    decode w = .ok i ↔ decodeShape (fieldsOf w) = .ok i ∧ i.wellFormed = true := by
  unfold decode
  split
  · rename_i j hj
    simp only [hj, checkOperands_eq_ok, Except.ok.injEq]
    constructor
    · rintro ⟨hw, rfl⟩; exact ⟨rfl, hw⟩
    · rintro ⟨rfl, hw⟩; exact ⟨hw, rfl⟩
  · rename_i r hr
    simp [hr]

/-- A 16-bit field whose upper twelve bits are zero is a nibble. -/
theorem nibble_of_upper_zero {a : Half} (h : a.extractLsb' 4 12 = 0) : (a.extractLsb' 0 4).setWidth 16 = a := by
  apply BitVec.eq_of_getLsbD_eq
  intro i hi
  have hb := congrArg (·.getLsbD (i - 4)) h
  simp at hb ⊢
  grind

/-- A 16-bit field whose upper byte is zero is a byte. -/
theorem byte_of_upper_zero {a : Half} (h : a.extractLsb' 8 8 = 0) : (a.extractLsb' 0 8).setWidth 16 = a := by
  apply BitVec.eq_of_getLsbD_eq
  intro i hi
  have hb := congrArg (·.getLsbD (i - 8)) h
  simp at hb ⊢
  grind

theorem nibble_slice (n : Nibble) : (n.setWidth 16).extractLsb' 0 4 = n ∧ (n.setWidth 16).extractLsb' 4 12 = 0 := by
  revert n; decide

theorem byte_slice (x : Byte) : (x.setWidth 16).extractLsb' 0 8 = x ∧ (x.setWidth 16).extractLsb' 8 8 = 0 := by
  revert x; decide

theorem index_slice (index : BitVec 3) :
    (index.setWidth 8).extractLsb' 0 3 = index ∧ (index.setWidth 8).extractLsb' 3 5 = 0 := by
  revert index; decide

theorem index_of_upper_zero {cfg : Byte} (h : cfg.extractLsb' 3 5 = 0) : (cfg.extractLsb' 0 3).setWidth 8 = cfg := by
  revert cfg; decide

theorem config_slice (v : BitVec 2) (r : BitVec 3) :
    (configByte v r).extractLsb' 0 3 = r ∧ (configByte v r).extractLsb' 3 1 = 0 ∧
      (configByte v r).extractLsb' 4 2 = v ∧ (configByte v r).extractLsb' 6 2 = 0 := by
  revert v r; decide

theorem config_of_zero {cfg : Byte} (h6 : cfg.extractLsb' 6 2 = 0) (h3 : cfg.extractLsb' 3 1 = 0) :
    configByte (cfg.extractLsb' 4 2) (cfg.extractLsb' 0 3) = cfg := by
  revert cfg; decide

/-! Each format accepts exactly the fields that the encoder lays out for it. -/

theorem formatN_eq_ok {f : Fields} {c i : Instr} :
    formatN f c = .ok i ↔ f = { op := f.op, cfg := 0, a := 0, b := 0 } ∧ i = c := by
  obtain ⟨op, cfg, a, b⟩ := f
  simp only [formatN, ifZero_eq_ok, Bool.and_eq_true, beq_iff_eq, Fields.mk.injEq, true_and, and_assoc, eq_comm (a := i)]

theorem formatNN_eq_ok {f : Fields} {c : Nibble → Nibble → Instr} {i : Instr} :
    formatNN f c = .ok i ↔
      ∃ x y : Nibble, f = { op := f.op, cfg := 0, a := x.setWidth 16, b := y.setWidth 16 } ∧ i = c x y := by
  obtain ⟨op, cfg, a, b⟩ := f
  simp only [formatNN, ifZero_eq_ok, Bool.and_eq_true, beq_iff_eq, Fields.mk.injEq, true_and]
  constructor
  · rintro ⟨⟨⟨hc, ha⟩, hb⟩, rfl⟩
    exact ⟨_, _, ⟨hc, (nibble_of_upper_zero ha).symm, (nibble_of_upper_zero hb).symm⟩, rfl⟩
  · rintro ⟨x, y, ⟨rfl, rfl, rfl⟩, rfl⟩
    simp only [nibble_slice, and_self]

theorem formatN1_eq_ok {f : Fields} {c : Nibble → Instr} {i : Instr} :
    formatN1 f c = .ok i ↔ ∃ n : Nibble, f = { op := f.op, cfg := 0, a := n.setWidth 16, b := 0 } ∧ i = c n := by
  obtain ⟨op, cfg, a, b⟩ := f
  simp only [formatN1, ifZero_eq_ok, Bool.and_eq_true, beq_iff_eq, Fields.mk.injEq, true_and]
  constructor
  · rintro ⟨⟨⟨hc, ha⟩, hb⟩, rfl⟩
    exact ⟨_, ⟨hc, (nibble_of_upper_zero ha).symm, hb⟩, rfl⟩
  · rintro ⟨n, ⟨rfl, rfl, rfl⟩, rfl⟩
    simp only [nibble_slice, and_self]

theorem formatB1_eq_ok {f : Fields} {c : Byte → Instr} {i : Instr} :
    formatB1 f c = .ok i ↔ ∃ x : Byte, f = { op := f.op, cfg := 0, a := x.setWidth 16, b := 0 } ∧ i = c x := by
  obtain ⟨op, cfg, a, b⟩ := f
  simp only [formatB1, ifZero_eq_ok, Bool.and_eq_true, beq_iff_eq, Fields.mk.injEq, true_and]
  constructor
  · rintro ⟨⟨⟨hc, ha⟩, hb⟩, rfl⟩
    exact ⟨_, ⟨hc, (byte_of_upper_zero ha).symm, hb⟩, rfl⟩
  · rintro ⟨x, ⟨rfl, rfl, rfl⟩, rfl⟩
    simp only [byte_slice, and_self]

theorem formatW1_eq_ok {f : Fields} {c : Half → Instr} {i : Instr} :
    formatW1 f c = .ok i ↔ f = { op := f.op, cfg := 0, a := f.a, b := 0 } ∧ i = c f.a := by
  obtain ⟨op, cfg, a, b⟩ := f
  simp only [formatW1, ifZero_eq_ok, Bool.and_eq_true, beq_iff_eq, Fields.mk.injEq, true_and, eq_comm (a := i)]

theorem formatW2_eq_ok {f : Fields} {c : Half → Half → Instr} {i : Instr} :
    formatW2 f c = .ok i ↔ f = { op := f.op, cfg := 0, a := f.a, b := f.b } ∧ i = c f.a f.b := by
  obtain ⟨op, cfg, a, b⟩ := f
  simp only [formatW2, ifZero_eq_ok, beq_iff_eq, Fields.mk.injEq, true_and, and_true, eq_comm (a := i)]

theorem formatI_eq_ok {f : Fields} {c : BitVec 3 → Instr} {i : Instr} :
    formatI f c = .ok i ↔
      ∃ index : BitVec 3, f = { op := f.op, cfg := index.setWidth 8, a := 0, b := 0 } ∧ i = c index := by
  obtain ⟨op, cfg, a, b⟩ := f
  simp only [formatI, ifZero_eq_ok, Bool.and_eq_true, beq_iff_eq, Fields.mk.injEq, true_and]
  constructor
  · rintro ⟨⟨⟨hc, ha⟩, hb⟩, rfl⟩
    exact ⟨_, ⟨(index_of_upper_zero hc).symm, ha, hb⟩, rfl⟩
  · rintro ⟨index, ⟨rfl, rfl, rfl⟩, rfl⟩
    simp only [index_slice, and_self]

theorem formatC1_eq_ok {f : Fields} {c : BitVec 2 → BitVec 3 → Half → Instr} {i : Instr} :
    formatC1 f c = .ok i ↔
      ∃ (v : BitVec 2) (r : BitVec 3), f = { op := f.op, cfg := configByte v r, a := f.a, b := 0 } ∧ i = c v r f.a := by
  obtain ⟨op, cfg, a, b⟩ := f
  simp only [formatC1, ifZero_eq_ok, Bool.and_eq_true, beq_iff_eq, Fields.mk.injEq, true_and]
  constructor
  · rintro ⟨⟨⟨h6, h3⟩, hb⟩, rfl⟩
    exact ⟨_, _, ⟨(config_of_zero h6 h3).symm, hb⟩, rfl⟩
  · rintro ⟨v, r, ⟨rfl, rfl⟩, rfl⟩
    simp only [config_slice, and_self]

end Sys2Proof
end

