-- ==== Sys2Proof/Laws/Operands.lean ====
section
/-!
SUPPORT. The operand forms: a State and its state word determine each other, a Key and its halves too, and the CipherConfig
and the round-key index exist exactly where WellFormed says the operands are legal.
-/

namespace Sys2Proof.Machine

theorem unsw_sw (st : Nibbles) : unsw (sw st) = st := by
  obtain ⟨a, b, c, d⟩ := st
  simp only [unsw, sw, Nibbles.mk.injEq]
  refine ⟨?_, ?_, ?_, ?_⟩ <;>
    (apply BitVec.eq_of_getLsbD_eq
     intro i hi
     simp only [BitVec.getLsbD_extractLsb', BitVec.getLsbD_cast, BitVec.getLsbD_append]
     grind)

theorem sw_unsw (w : Half) : sw (unsw w) = w := by
  ext i hi
  simp only [unsw, sw, BitVec.getElem_cast, BitVec.getElem_append, BitVec.getElem_extractLsb']
  simp only [← BitVec.getLsbD_eq_getElem]
  split
  · simp
  · split
    · congr 1; omega
    · split
      · congr 1; omega
      · congr 1; omega

theorem hiByte_halfOf (h l : Byte) : hiByte (halfOf h l) = h := by
  apply BitVec.eq_of_getLsbD_eq
  intro i hi
  simp only [hiByte, halfOf, BitVec.getLsbD_extractLsb', BitVec.getLsbD_cast, BitVec.getLsbD_append]
  simp [hi]

theorem loByte_halfOf (h l : Byte) : loByte (halfOf h l) = l := by
  apply BitVec.eq_of_getLsbD_eq
  intro i hi
  simp only [loByte, halfOf, BitVec.getLsbD_extractLsb', BitVec.getLsbD_cast, BitVec.getLsbD_append]
  simp [hi]

theorem halfOf_bytes (k : Half) : halfOf (hiByte k) (loByte k) = k := by
  ext i hi
  simp only [hiByte, loByte, halfOf, BitVec.getElem_cast, BitVec.getElem_append, BitVec.getElem_extractLsb']
  simp only [← BitVec.getLsbD_eq_getElem]
  split
  · simp
  · congr 1; omega

/-- R66: the operands of ENC and DEC denote a CipherConfig exactly when they are legal. -/
theorem configOf_isSome (v : BitVec 2) (r : BitVec 3) :
    (configOf v r).isSome = (legalVariant v && legalRounds r) := by
  revert v r; decide

/-- R66, R180: Standard-2 is variant 0 with round count 2. -/
theorem configOf_eq_standard2 (v : BitVec 2) (r : BitVec 3) :
    configOf v r = some standard2 ↔ v = 0 ∧ r = 2 := by
  revert v r; decide

/-- R67: cfg[2:0] denotes a round key exactly when it is legal. -/
theorem keyIndexOf_isSome (index : BitVec 3) : (keyIndexOf index).isSome = legalKeyIndex index := by
  revert index; decide

end Sys2Proof.Machine
end

