-- ==== Sys2Proof/Laws/State.lean ====
section
/-!
SUPPORT. One lemma for each field of each named update of the state.
-/

namespace Sys2Proof.Machine

@[simp] theorem State.emit_keys (s : State) (r : Response) : (s.emit r).keys = s.keys := rfl
@[simp] theorem State.emit_err (s : State) (r : Response) : (s.emit r).err = s.err := rfl
@[simp] theorem State.emit_par (s : State) (r : Response) : (s.emit r).par = s.par := rfl
@[simp] theorem State.emit_inputs (s : State) (r : Response) : (s.emit r).inputs = s.inputs := rfl
@[simp] theorem State.emit_responses (s : State) (r : Response) : (s.emit r).responses = s.responses ++ [r] := rfl

@[simp] theorem State.loadKeys_keys (s : State) (ks : RoundKeys) : (s.loadKeys ks).keys = some ks := rfl
@[simp] theorem State.loadKeys_err (s : State) (ks : RoundKeys) : (s.loadKeys ks).err = s.err := rfl
@[simp] theorem State.loadKeys_par (s : State) (ks : RoundKeys) : (s.loadKeys ks).par = s.par := rfl
@[simp] theorem State.loadKeys_inputs (s : State) (ks : RoundKeys) : (s.loadKeys ks).inputs = s.inputs := rfl
@[simp] theorem State.loadKeys_responses (s : State) (ks : RoundKeys) : (s.loadKeys ks).responses = s.responses := rfl

@[simp] theorem State.applyReset_keys (s : State) : s.applyReset.keys = none := rfl
@[simp] theorem State.applyReset_err (s : State) : s.applyReset.err = .ok := rfl
@[simp] theorem State.applyReset_par (s : State) : s.applyReset.par = s.par := rfl
@[simp] theorem State.applyReset_inputs (s : State) : s.applyReset.inputs = s.inputs := rfl
@[simp] theorem State.applyReset_responses (s : State) : s.applyReset.responses = s.responses := rfl

@[simp] theorem State.present_keys (s : State) (w : CommandWord) : (s.present w).keys = s.keys := rfl
@[simp] theorem State.present_err (s : State) (w : CommandWord) : (s.present w).err = s.err := rfl
@[simp] theorem State.present_par (s : State) (w : CommandWord) : (s.present w).par = s.par := rfl
@[simp] theorem State.present_inputs (s : State) (w : CommandWord) :
    (s.present w).inputs = .command w :: s.inputs := rfl
@[simp] theorem State.present_responses (s : State) (w : CommandWord) : (s.present w).responses = s.responses := rfl

end Sys2Proof.Machine
end

