-- ==== Sys2Proof/Laws/Ops.lean ====
section
/-!
SUPPORT. What each shared operation can do, said once: how a command ends, how the round keys are read, and how the port
hands a word on.
-/

namespace Sys2Proof.Machine

/-- A command that ends normally adds one OK response and changes nothing else. -/
theorem respond_eq (d : Half) (s : State) : respond d s = .next (Spec.answer s d) := rfl

/-- ERR after a fault, as R215 (b) writes it. -/
theorem recordFault_eq (c : FaultCode) (e : Status) : recordFault c e = if e = .ok then .fault c else e := by
  cases e <;> rfl

/-- A fault adds the response {c, 0}, sets ERR if it was 0, and changes nothing else. -/
theorem raise_eq (c : FaultCode) (s : State) : raise c s = .next (Spec.faulted s c) := by
  simp only [raise, Spec.faulted, recordFault_eq, State.emit]

theorem withKeys_none (s : State) (go : RoundKeys → Result) (h : s.keys = none) :
    withKeys s go = .next (Spec.faulted s .noKey) := by
  simp only [withKeys, h, raise_eq]

theorem withKeys_some (s : State) (ks : RoundKeys) (go : RoundKeys → Result) (h : s.keys = some ks) :
    withKeys s go = go ks := by
  simp only [withKeys, h]

/-- The first fault after one more response: the old one, if there is one, else the new response's status. -/
theorem firstFault_append (rs : List Response) (r : Response) :
    Spec.firstFault (rs ++ [r]) = if Spec.firstFault rs = .ok then r.status else Spec.firstFault rs := by
  induction rs with
  | nil => cases h : r.status <;> simp [Spec.firstFault, h]
  | cons q rs ih => by_cases h : q.status = .ok <;> simp [Spec.firstFault, h, ih]

/-- The word of a legal command runs that command. -/
theorem runWord_ok {w : CommandWord} {i : Instr} (s : State) (h : decode w = .ok i) : runWord w s = exec i s := by
  simp only [runWord, h]

/-- Every other word raises ILLEGAL_COMMAND. -/
theorem runWord_error {w : CommandWord} {r : Reject} (s : State) (h : decode w = .error r) :
    runWord w s = .next (Spec.faulted s .illegalCommand) := by
  simp only [runWord, h, raise_eq]

theorem takeEvent_nil (s : State) (h : s.inputs = []) : takeEvent s = .next s := by
  simp only [takeEvent, h]

theorem takeEvent_cons (s : State) (e : HostEvent) (rest : List HostEvent) (h : s.inputs = e :: rest) :
    takeEvent s = handleEvent e { s with inputs := rest } := by
  simp only [takeEvent, h]

end Sys2Proof.Machine
end

