-- ==== Sys2Proof/Laws/PerInstr.lean ====
section
/-!
SUPPORT. One lemma for each command about its encoding: its word selects its own row of spec/30_encoding.md R64, the must-be-zero
bits included.
-/

namespace Sys2Proof.Laws.SelectsItsRow

open Sys2Proof.Spec

/-- R64: the position in the opcode map of a command's row. -/
def rowNumber : Instr → Nat
  | .gfmul _ _ => 0
  | .sbox _ => 1
  | .isbox _ => 2
  | .tostate _ => 3
  | .toblock _ => 4
  | .sub2nib _ => 5
  | .kexp _ => 6
  | .rdrk _ => 7
  | .subn _ => 8
  | .isubn _ => 9
  | .rowsh _ => 10
  | .colmix _ => 11
  | .icolmix _ => 12
  | .addkey _ _ => 13
  | .round _ _ => 14
  | .fround _ _ => 15
  | .iround _ _ => 16
  | .enc _ _ _ => 17
  | .dec _ _ _ => 18
  | .rdstat => 19

/-- R64: the word and the row's mask give the row's pattern. -/
def Statement (i : Instr) : Prop :=
  ∃ row, rows[rowNumber i]? = some row ∧ encode i &&& row.mask = row.pattern

/-- A mask acts on each of the four fields of a word. -/
theorem word_and_mask {f : Fields} {mask pattern : CommandWord}
    (hop : f.op &&& mask.extractLsb' 40 8 = pattern.extractLsb' 40 8)
    (hcfg : f.cfg &&& mask.extractLsb' 32 8 = pattern.extractLsb' 32 8)
    (ha : f.a &&& mask.extractLsb' 16 16 = pattern.extractLsb' 16 16)
    (hb : f.b &&& mask.extractLsb' 0 16 = pattern.extractLsb' 0 16) : f.word &&& mask = pattern := by
  apply fieldsOf_injective
  have slice : ∀ start len : Nat, (f.word &&& mask).extractLsb' start len =
      f.word.extractLsb' start len &&& mask.extractLsb' start len := by
    intro start len; ext i hi; simp
  have hf := fieldsOf_word f
  obtain ⟨op, cfg, a, b⟩ := f
  simp only [fieldsOf, Fields.mk.injEq] at hf hop hcfg ha hb ⊢
  obtain ⟨h1, h2, h3, h4⟩ := hf
  simp only [slice, h1, h2, h3, h4, hop, hcfg, ha, hb, and_self]

theorem nibble_and_mask (x : Nibble) : x.setWidth 16 &&& 0xFFF0#16 = 0#16 := by revert x; decide

theorem byte_and_mask (x : Byte) : x.setWidth 16 &&& 0xFF00#16 = 0#16 := by revert x; decide

theorem index_and_mask (index : BitVec 3) : index.setWidth 8 &&& 0xF8#8 = 0#8 := by revert index; decide

theorem config_and_mask (v : BitVec 2) (r : BitVec 3) : configByte v r &&& 0xC8#8 = 0#8 := by revert v r; decide

theorem gfmul (x y : Nibble) : Statement (.gfmul x y) :=
  ⟨_, rfl, word_and_mask (by simp only [encodeFields]; decide) BitVec.zero_and (nibble_and_mask x) (nibble_and_mask y)⟩

theorem sbox (n : Nibble) : Statement (.sbox n) :=
  ⟨_, rfl, word_and_mask (by simp only [encodeFields]; decide) BitVec.zero_and (nibble_and_mask n) BitVec.zero_and⟩

theorem isbox (n : Nibble) : Statement (.isbox n) :=
  ⟨_, rfl, word_and_mask (by simp only [encodeFields]; decide) BitVec.zero_and (nibble_and_mask n) BitVec.zero_and⟩

theorem sub2nib (x : Byte) : Statement (.sub2nib x) :=
  ⟨_, rfl, word_and_mask (by simp only [encodeFields]; decide) BitVec.zero_and (byte_and_mask x) BitVec.zero_and⟩

theorem rdrk (index : BitVec 3) : Statement (.rdrk index) :=
  ⟨_, rfl, word_and_mask (by simp only [encodeFields]; decide) (index_and_mask index) BitVec.zero_and BitVec.zero_and⟩

theorem enc (v : BitVec 2) (r : BitVec 3) (p : Half) : Statement (.enc v r p) :=
  ⟨_, rfl, word_and_mask (by simp only [encodeFields]; decide) (config_and_mask v r) BitVec.and_zero BitVec.zero_and⟩

theorem dec (v : BitVec 2) (r : BitVec 3) (c : Half) : Statement (.dec v r c) :=
  ⟨_, rfl, word_and_mask (by simp only [encodeFields]; decide) (config_and_mask v r) BitVec.and_zero BitVec.zero_and⟩

theorem tostate (w : Half) : Statement (.tostate w) :=
  ⟨_, rfl, word_and_mask (by simp only [encodeFields]; decide) BitVec.zero_and BitVec.and_zero BitVec.zero_and⟩

theorem toblock (w : Half) : Statement (.toblock w) :=
  ⟨_, rfl, word_and_mask (by simp only [encodeFields]; decide) BitVec.zero_and BitVec.and_zero BitVec.zero_and⟩

theorem kexp (w : Half) : Statement (.kexp w) :=
  ⟨_, rfl, word_and_mask (by simp only [encodeFields]; decide) BitVec.zero_and BitVec.and_zero BitVec.zero_and⟩

theorem subn (w : Half) : Statement (.subn w) :=
  ⟨_, rfl, word_and_mask (by simp only [encodeFields]; decide) BitVec.zero_and BitVec.and_zero BitVec.zero_and⟩

theorem isubn (w : Half) : Statement (.isubn w) :=
  ⟨_, rfl, word_and_mask (by simp only [encodeFields]; decide) BitVec.zero_and BitVec.and_zero BitVec.zero_and⟩

theorem rowsh (w : Half) : Statement (.rowsh w) :=
  ⟨_, rfl, word_and_mask (by simp only [encodeFields]; decide) BitVec.zero_and BitVec.and_zero BitVec.zero_and⟩

theorem colmix (w : Half) : Statement (.colmix w) :=
  ⟨_, rfl, word_and_mask (by simp only [encodeFields]; decide) BitVec.zero_and BitVec.and_zero BitVec.zero_and⟩

theorem icolmix (w : Half) : Statement (.icolmix w) :=
  ⟨_, rfl, word_and_mask (by simp only [encodeFields]; decide) BitVec.zero_and BitVec.and_zero BitVec.zero_and⟩

theorem addkey (w k : Half) : Statement (.addkey w k) :=
  ⟨_, rfl, word_and_mask (by simp only [encodeFields]; decide) BitVec.zero_and BitVec.and_zero BitVec.and_zero⟩

theorem round (w k : Half) : Statement (.round w k) :=
  ⟨_, rfl, word_and_mask (by simp only [encodeFields]; decide) BitVec.zero_and BitVec.and_zero BitVec.and_zero⟩

theorem fround (w k : Half) : Statement (.fround w k) :=
  ⟨_, rfl, word_and_mask (by simp only [encodeFields]; decide) BitVec.zero_and BitVec.and_zero BitVec.and_zero⟩

theorem iround (w k : Half) : Statement (.iround w k) :=
  ⟨_, rfl, word_and_mask (by simp only [encodeFields]; decide) BitVec.zero_and BitVec.and_zero BitVec.and_zero⟩

theorem rdstat : Statement .rdstat :=
  ⟨_, rfl, word_and_mask (by simp only [encodeFields]; decide) BitVec.zero_and BitVec.zero_and BitVec.zero_and⟩

end Sys2Proof.Laws.SelectsItsRow
end

