-- ==== Sys2Proof/Laws/Tables.lean ====
section
/-!
SUPPORT. The S-box as a function: its entries are pairwise different (spec/00_scope.md R6), and the search behind ISBOX runs
over all sixteen nibbles.
-/

namespace Sys2Proof.Machine

/-- R6: `SBOX` is injective, by the constraint that `Params` carries. -/
theorem subNibble_injective (P : Params) (m n : Nibble) (h : subNibble P m = subNibble P n) : m = n := by
  have hd : P.sbox.toList.Nodup := by simpa [Config.isBijection] using P.sbox_bijection
  have hm : m.toNat < P.sbox.toList.length := by simpa using m.isLt
  have hn : n.toNat < P.sbox.toList.length := by simpa using n.isLt
  have he : P.sbox.toList[m.toNat] = P.sbox.toList[n.toNat] := by simpa [subNibble] using h
  exact BitVec.eq_of_toNat_eq ((List.Nodup.getElem_inj_iff hd).1 he)

theorem mem_allNibbles (n : Nibble) : n ∈ allNibbles := by
  revert n; decide

end Sys2Proof.Machine
end

