-- ==== Sys2Proof/Tests/Slice0.lean ====
section
/-!
SUPPORT. Tests. Every expected value is the spec's: an `Example` line of a command rule or a row of spec/95_test_vectors.md
(its section is named). The vectors that pass through a table use the spec's default tables. The last part holds, for each
obligation with hypotheses, a concrete case that meets them.
-/

namespace Sys2Proof.Tests

open Sys2Proof.Machine Sys2Proof.Spec

/-- The response of one step that runs the word `w`. -/
def reply (w : CommandWord) (s : State) : Option Response :=
  match step (s.present w) with
  | .next t => t.responses.getLast?
  | .fault _ => none
  | .refused _ => none

/-- The state that one step leaves. -/
def after (s : State) : State :=
  match step s with
  | .next t => t
  | .fault _ => s
  | .refused _ => s

/-- The round keys of key 0xA73B (43 R136). -/
def keysA73B : RoundKeys := ⟨0xA73B, 0x1C27, 0x7651, 0x5706, 0x1E18⟩

/-- `KeysLoaded(0xA73B)`. -/
def keyed : State := { State.reset with keys := some keysA73B }

def okay (d : Half) : Option Response := some { status := .ok, data := d }

def refused (c : FaultCode) : Option Response := some { status := .fault c, data := 0 }

/-! ### WellFormed refuses an ill-formed term for each of its checks, and admits the ends of each range -/

theorem smoke_key_index : (Instr.rdrk 5).wellFormed = false ∧ (Instr.rdrk 4).wellFormed = true := by decide
theorem smoke_enc_variant : (Instr.enc 3 1 0).wellFormed = false ∧ (Instr.enc 2 1 0).wellFormed = true := by decide
theorem smoke_enc_no_round : (Instr.enc 0 0 0).wellFormed = false ∧ (Instr.enc 0 1 0).wellFormed = true := by decide
theorem smoke_enc_five_rounds : (Instr.enc 0 5 0).wellFormed = false ∧ (Instr.enc 0 4 0).wellFormed = true := by decide
theorem smoke_dec_variant : (Instr.dec 3 2 0).wellFormed = false ∧ (Instr.dec 2 4 0).wellFormed = true := by decide
theorem smoke_dec_rounds : (Instr.dec 1 6 0).wellFormed = false ∧ (Instr.dec 1 0 0).wellFormed = false := by decide

/-! ### Decoding: one word of each command, laid out from R60 to R64 -/

theorem test_decode_gfmul : decode 0x010000040009 = .ok (.gfmul 4 9) := by decide
theorem test_decode_sbox : decode 0x0200000A0000 = .ok (.sbox 0xA) := by decide
theorem test_decode_isbox : decode 0x030000090000 = .ok (.isbox 9) := by decide
theorem test_decode_tostate : decode 0x040012340000 = .ok (.tostate 0x1234) := by decide
theorem test_decode_toblock : decode 0x050013240000 = .ok (.toblock 0x1324) := by decide
theorem test_decode_sub2nib : decode 0x060000270000 = .ok (.sub2nib 0x27) := by decide
theorem test_decode_kexp : decode 0x0700A73B0000 = .ok (.kexp 0xA73B) := by decide
theorem test_decode_rdrk : decode 0x080200000000 = .ok (.rdrk 2) := by decide
theorem test_decode_subn : decode 0x100012340000 = .ok (.subn 0x1234) := by decide
theorem test_decode_isubn : decode 0x11004ABD0000 = .ok (.isubn 0x4ABD) := by decide
theorem test_decode_rowsh : decode 0x120012340000 = .ok (.rowsh 0x1234) := by decide
theorem test_decode_colmix : decode 0x130012340000 = .ok (.colmix 0x1234) := by decide
theorem test_decode_icolmix : decode 0x1400D17C0000 = .ok (.icolmix 0xD17C) := by decide
theorem test_decode_addkey : decode 0x150012341C27 = .ok (.addkey 0x1234 0x1C27) := by decide
theorem test_decode_round : decode 0x160012341C27 = .ok (.round 0x1234 0x1C27) := by decide
theorem test_decode_fround : decode 0x170012341C27 = .ok (.fround 0x1234 0x1C27) := by decide
theorem test_decode_iround : decode 0x180042221C27 = .ok (.iround 0x4222 0x1C27) := by decide
theorem test_decode_enc : decode 0x202312340000 = .ok (.enc 2 3 0x1234) := by decide
theorem test_decode_dec : decode 0x211207380000 = .ok (.dec 1 2 0x0738) := by decide
theorem test_decode_rdstat : decode 0x300000000000 = .ok .rdstat := by decide

/-- 30 R70, 95 section 2.7: unassigned opcodes. -/
theorem test_decode_unassigned :
    decode 0x000000000000 = .error .unassignedOpcode ∧ decode 0xFFFFFFFFFFFF = .error .unassignedOpcode ∧
      decode 0x090000000000 = .error .unassignedOpcode ∧ decode 0x220000000000 = .error .unassignedOpcode := by decide

/-- 95 sections 2.1 to 2.7: must-be-zero bits. -/
theorem test_decode_must_be_zero :
    decode 0x010000100003 = .error .mustBeZero ∧ decode 0x020000050001 = .error .mustBeZero ∧
      decode 0x060001000000 = .error .mustBeZero ∧ decode 0x124000000000 = .error .mustBeZero ∧
      decode 0x200A00000000 = .error .mustBeZero ∧ decode 0x300000000001 = .error .mustBeZero := by decide

/-- 95 sections 2.4 and 2.6: operand values outside R66 and R67. -/
theorem test_decode_reserved :
    decode 0x080500000000 = .error .reservedOperand ∧ decode 0x200500000000 = .error .reservedOperand ∧
      decode 0x200000000000 = .error .reservedOperand ∧ decode 0x203200000000 = .error .reservedOperand := by decide

theorem test_decode_table_word : decodeTableWord 48 0x010000040009 = some (.gfmul 4 9) := by decide

/-- 30 R74: the three words of its example. -/
theorem test_encode :
    encode (.enc 0 2 0x6F6B) = 0x20026F6B0000 ∧ encode (.gfmul 4 9) = 0x010000040009 ∧
      encode (.round 0x1234 0xABCD) = 0x16001234ABCD := by decide

/-! ### One step of each command -/

/-- 95 section 2.1: the first reduction. -/
theorem test_gfmul : reply 0x010000020008 .reset = okay 0x0003 := by decide
/-- 95 section 2.1: the largest operands. -/
theorem test_gfmul_largest : reply 0x0100000F000F .reset = okay 0x000A := by decide
theorem test_sbox : reply 0x020000000000 .reset = okay 0x0009 := by decide
theorem test_isbox : reply 0x030000000000 .reset = okay 0x000A := by decide
theorem test_tostate : reply 0x040012340000 .reset = okay 0x1324 := by decide
theorem test_toblock : reply 0x050013240000 .reset = okay 0x1234 := by decide
theorem test_sub2nib : reply 0x060000270000 .reset = okay 0x005A := by decide
/-- 43 R135, R136: all five registers, from a state that held another key. -/
theorem test_kexp : (after (keyed.present 0x070000000000)).keys =
    some ⟨0x0000, 0x1919, 0x0D14, 0xB9AD, 0x9934⟩ := by decide
theorem test_kexp_returns_no_key : reply 0x0700A73B0000 .reset = okay 0 := by decide
theorem test_rdrk : reply 0x080200000000 keyed = okay 0x7651 := by decide
theorem test_rdrk_without_key : reply 0x080200000000 .reset = refused .noKey := by decide
theorem test_subn : reply 0x100012340000 .reset = okay 0x4ABD := by decide
theorem test_isubn : reply 0x110012340000 .reset = okay 0x59B1 := by decide
theorem test_rowsh : reply 0x120012340000 .reset = okay 0x1243 := by decide
theorem test_colmix : reply 0x130012340000 .reset = okay 0xD17C := by decide
theorem test_icolmix : reply 0x140000010000 .reset = okay 0x0209 := by decide
theorem test_addkey : reply 0x150012341C27 .reset = okay 0x00F3 := by decide
theorem test_round : reply 0x160012341C27 .reset = okay 0x4222 := by decide
theorem test_fround : reply 0x170012341C27 .reset = okay 0x581C := by decide
theorem test_iround : reply 0x180012341C27 .reset = okay 0x486D := by decide
/-- 95 section 2.6, config S4. -/
theorem test_enc_standard : reply 0x20046F6B0000 keyed = okay 0xB566 := by decide
/-- 95 section 2.6, config L3. -/
theorem test_enc_lazy : reply 0x20136F6B0000 keyed = okay 0x7FF9 := by decide
/-- 95 section 2.6, config V4, the spec's row with LAZY_ROWSHIFT true. -/
theorem test_enc_very_lazy_row_shift :
    reply 0x20246F6B0000 { keyed with par := { defaultParams with lazyRowShift := true } } = okay 0x357B := by decide
theorem test_dec : reply 0x210207380000 keyed = okay 0x6F6B := by decide
/-- 45 R189: the configuration is checked before the key. -/
theorem test_dec_lazy : reply 0x211212340000 .reset = refused .unsupportedConfig := by decide
/-- 46 R200: the first fault was UNSUPPORTED_CONFIG, keys loaded. -/
theorem test_rdstat : reply 0x300000000000 { keyed with err := .fault .unsupportedConfig } = okay 0x0012 := by decide

/-- 95 P3 steps 1 and 2: the first fault stays. -/
theorem test_err_is_sticky :
    (after (State.reset.present 0x200212340000)).err = .fault .noKey ∧
      (after ((after (State.reset.present 0x200212340000)).present 0x211212340000)).err = .fault .noKey := by decide

/-- 43 R135, 95 section 2.4: a faulting KEXP leaves RK and RKV. -/
theorem test_faulting_kexp_keeps_keys : (after (keyed.present 0x070100000000)).keys = some keysA73B := by decide

/-- 70 R241: a KEXP cut by reset leaves RKV = 0 and gets no response. -/
theorem test_reset_cuts_kexp :
    (after { keyed with inputs := [.resetDuring 0x0700A73B0000] }).keys = none ∧
      (after { keyed with inputs := [.resetDuring 0x0700A73B0000] }).responses = [] := by decide

/-- 30 R62: {status, data} in 20 bits. -/
theorem test_response_word : (Response.mk (.fault .unsupportedConfig) 0x0000).word = 0x20000 := by decide

/-- The placed word is the next command, with the state otherwise as it was. -/
theorem test_fetch_word : (State.reset.withFetchWord 48 0x300000000000).inputs = [.command 0x300000000000] := by decide

/-- 70 R252: each launch premise holds of a state. -/
theorem test_launch_premises :
    Fresh .reset ∧ NoFault keyed ∧ KeysLoaded 0xA73B keyed ∧ KeysArbitrary ⟨1, 2, 3, 4, 5⟩ { keyed with keys := some ⟨1, 2, 3, 4, 5⟩ } := by
  decide

/-! ### A case that meets the hypotheses of each obligation that has any -/

theorem witness_MustBeZeroBitsAndUniqueEncoding :
    (∃ row ∈ rows, (0x010000100003 : CommandWord) >>> 40 = row.pattern >>> 40 ∧
      (0x010000100003 : CommandWord) &&& row.mask ≠ row.pattern) ∧
      decode 0x21240001FFFF = .error .mustBeZero ∧ decode 0x2124FFFF0000 = .ok (.dec 2 4 0xFFFF) := by decide

theorem witness_LegalWordsAreTheRowsOfTheMap :
    Legal 0x080400000000 ∧ decode 0x080400000000 = .ok (.rdrk 4) ∧ ¬ Legal 0x080500000000 := by decide

theorem witness_StepRunsTheDecodedCommand :
    (keyed.present 0x080400000000).inputs = .command 0x080400000000 :: [] ∧
      decode 0x080400000000 = .ok (.rdrk 4) := by decide

theorem witness_IllegalCommandExactlyForIllegalWords :
    (keyed.present 0x200500000000).inputs = .command 0x200500000000 :: [] ∧ ¬ Legal 0x200500000000 ∧
      (keyed.present 0x202400000000).inputs = .command 0x202400000000 :: [] ∧ Legal 0x202400000000 := by decide

theorem witness_FaultingCommandWritesOnlyErr :
    step (State.reset.present 0x080400000000) = .next (after (State.reset.present 0x080400000000)) ∧
      (after (State.reset.present 0x080400000000)).responses =
        (State.reset.present 0x080400000000).responses ++ [Response.mk (.fault .noKey) 0] :=
  ⟨rfl, by decide⟩

theorem witness_StepAlwaysAnswers :
    (keyed.present 0x000000000000).inputs = .command 0x000000000000 :: [] ∧ State.reset.inputs = [] := by decide

theorem witness_ResetEventClearsTheFlags :
    { keyed with inputs := [.reset] }.inputs = .reset :: [] ∧
      { keyed with inputs := [.resetDuring 0x0700A73B0000] }.inputs = .resetDuring 0x0700A73B0000 :: [] := by decide

theorem witness_IdleCoreKeepsItsState : keyed.inputs = [] := by decide

theorem witness_FaultOrderDecidesTheOutcome :
    verdict (.dec 3 2 0) .reset = .fault .illegalCommand ∧ verdict (.dec 1 2 0) .reset = .fault .unsupportedConfig ∧
      verdict (.dec 0 2 0) .reset = .fault .noKey ∧ verdict (.dec 0 2 0) keyed = .ok := by decide

theorem witness_FaultOrderDecidesTheOutcome_not_kexp : ∀ key, Instr.rdstat ≠ .kexp key := by
  intro key; simp

theorem witness_UnsupportedConfigExactlyForDec :
    (Instr.dec 0 1 0).wellFormed = true ∧ ¬((0 : BitVec 2) = 0 ∧ (1 : BitVec 3) = 2) ∧
      (Instr.dec 2 4 0).wellFormed = true := by decide

theorem witness_UnsupportedConfigExactlyForDec_converse :
    exec (.dec 2 4 0) .reset = .next (faulted .reset .unsupportedConfig) ∧
      (faulted .reset .unsupportedConfig).responses =
        State.reset.responses ++ [Response.mk (.fault .unsupportedConfig) 0] :=
  ⟨rfl, rfl⟩

theorem witness_KeyReadersRaiseNoKeyBeforeKexp :
    (Instr.rdrk 4).wellFormed = true ∧ (Instr.enc 2 4 0).wellFormed = true ∧ (Instr.dec 0 2 0).wellFormed = true ∧
      State.reset.keys = none := by decide

theorem witness_FirstFaultStaysUntilReset :
    step { State.reset with err := .fault .noKey } = .next { State.reset with err := .fault .noKey } ∧
      { State.reset with err := .fault .noKey }.err ≠ .ok :=
  ⟨rfl, by decide⟩

theorem witness_ErrInfluencesNoOtherCommand : Instr.rdrk 0 ≠ .rdstat := by decide

theorem witness_RunRecordsItsFirstFault :
    { State.reset with inputs := [.command 0x080000000000, .command 0x300000000000] }.inputs =
        [0x080000000000, 0x300000000000].map HostEvent.command ∧
      State.reset.responses = [] ∧ State.reset.err = .ok := by decide

/-- A step that faults for the first time, from an ERR that agrees with the responses. -/
theorem witness_ErrStaysTheFirstFault :
    ¬ resetNext (State.reset.present 0x080400000000) ∧
      (State.reset.present 0x080400000000).err = firstFault (State.reset.present 0x080400000000).responses ∧
      step (State.reset.present 0x080400000000) = .next (after (State.reset.present 0x080400000000)) := by
  refine ⟨?_, by decide, rfl⟩
  rintro ⟨rest, h | ⟨w, h⟩⟩ <;> cases h

theorem witness_RoundKeysChangeOnlyByKexpOrReset :
    step (State.reset.present 0x0700A73B0000) = .next (after (State.reset.present 0x0700A73B0000)) := rfl

/-- 43 R136: the keys of `keyed` are an expansion, so the invariant holds of a state with keys, and a step leaves it. -/
theorem witness_KeysStayExpanded : KeysAreExpanded keyed ∧ step keyed = .next keyed := by
  refine ⟨?_, rfl⟩
  intro ks h
  have hk : ks = keysA73B := by simpa [keyed] using h.symm
  exact ⟨0xA73B, by subst hk; decide⟩

theorem witness_KexpIsAFunctionOfTheKeyAndInjective :
    keyed.par = State.reset.par ∧
      exec (.kexp 0) keyed = .next ((keyed.loadKeys (expand defaultParams 0)).emit ⟨.ok, 0⟩) ∧
      exec (.kexp 1) .reset = .next ((State.reset.loadKeys (expand defaultParams 1)).emit ⟨.ok, 0⟩) :=
  ⟨rfl, rfl, rfl⟩

/-- Also for EncStandardIsItsRounds, EncLazyIsItsRounds, EncVeryLazyReusesTheFirstKey, DecIsTheInverseSteps and
DecryptionInvertsStandardTwo. -/
theorem witness_RdrkReturnsTheNamedKey : keyed.keys = some keysA73B := by decide

theorem witness_RdrkBeyondFourIsIllegal : 5 ≤ (5 : BitVec 3).toNat ∧ 5 ≤ (7 : BitVec 3).toNat := by decide

theorem witness_GfmulFieldLaws : (0xF : Nibble) ≠ 0 ∧ gfMul 0 7 = 0 ∧ gfMul 6 7 = 1 := by decide

theorem witness_IsboxIsTheInverseTable : sboxAt State.reset.par 0xF = 7 := by decide

theorem witness_UnitCommandsIgnoreTheState :
    readsKeys (.iround 0 0) = false ∧ Instr.iround 0 0 ≠ .rdstat ∧ ∀ key, Instr.iround 0 0 ≠ .kexp key := by
  refine ⟨by decide, by decide, ?_⟩
  intro key; simp

theorem witness_NothingHiddenInfluencesACommand :
    (keyed.present 0).keys = keyed.keys ∧ (keyed.present 0).err = keyed.err ∧ (keyed.present 0).par = keyed.par ∧
      keyed.present 0 ≠ keyed := by decide

theorem witness_EncIsABijectionOnBlocks :
    keyed.keys = some keysA73B ∧ (Instr.enc 2 4 0).wellFormed = true ∧ (Instr.enc 0 1 0).wellFormed = true := by decide

theorem witness_EncIsABijectionOnBlocks_equal :
    data (.enc 2 4 0x6F6B) keyed = data (.enc 2 4 0x6F6B) keyed := rfl

theorem witness_UnusedRoundKeysDoNotMatter :
    keyed.keys = some keysA73B ∧ keysA73B.k0 = { keysA73B with k4 := 0 }.k0 ∧ keysA73B.k1 = { keysA73B with k4 := 0 }.k1 ∧
      keysA73B.k2 = { keysA73B with k4 := 0 }.k2 ∧ keysA73B.k3 = { keysA73B with k4 := 0 }.k3 := by decide

theorem witness_LazyOneWithRowShiftIsStandardOne :
    { keyed with par := { defaultParams with lazyRowShift := true } }.par.lazyRowShift = true := by decide

theorem witness_LazyCiphersActNibblewise :
    keyed.keys = some keysA73B ∧ keyed.par.lazyRowShift = false ∧ (Instr.enc 1 1 0x6F6B).wellFormed = true ∧
      (Instr.enc 2 4 0x6F6B).wellFormed = true ∧ nib 0 0x6F6B = nib 0 0xEF6B ∧
      nib 3 0x6F6B = nib 3 0x6F6A := by decide

end Sys2Proof.Tests
end

section
/-!
PROOFS. The S-box and its search as two maps that undo each other, and SBOX and ISBOX as commands (spec/20_memory.md R41,
spec/41_sbox.md R110 to R113). Because SBOX is injective, ISBOX undoes it; because an injective map of the sixteen nibbles to
themselves is onto, SBOX undoes ISBOX as well.
-/

namespace Sys2Proof.Machine

open Sys2Proof.Spec

/-- R6: every nibble is an entry of `SBOX`. -/
theorem subNibble_surjective (P : Params) : Function.Surjective (subNibble P) :=
  Finite.surjective_of_injective fun m n => subNibble_injective P m n

/-- R41: `ISBOX[SBOX[n]] = n`. The search meets `n`, and only `n`. -/
@[simp] theorem invSubNibble_subNibble (P : Params) (n : Nibble) : invSubNibble P (subNibble P n) = n := by
  unfold invSubNibble
  cases found : allNibbles.find? fun m => subNibble P m == subNibble P n with
  | none => exact absurd (beq_self_eq_true (subNibble P n)) (List.find?_eq_none.1 found n (mem_allNibbles n))
  | some m =>
    have hit : subNibble P m = subNibble P n := by simpa using List.find?_some found
    exact subNibble_injective P m n hit

/-- R41: `SBOX[ISBOX[n]] = n`. -/
@[simp] theorem subNibble_invSubNibble (P : Params) (n : Nibble) : subNibble P (invSubNibble P n) = n := by
  obtain ⟨m, rfl⟩ := subNibble_surjective P n
  rw [invSubNibble_subNibble]

/-- The spec's table lookup, written out apart from the model, is the model's. -/
theorem sboxAt_eq_subNibble (P : Params) (n : Nibble) : sboxAt P n = subNibble P n := rfl

theorem exec_sbox (n : Nibble) (s : State) : exec (.sbox n) s = .next (answer s ((subNibble s.par n).setWidth 16)) :=
  respond_eq _ s

theorem exec_isbox (n : Nibble) (s : State) : exec (.isbox n) s = .next (answer s ((invSubNibble s.par n).setWidth 16)) :=
  respond_eq _ s

/-- Settles O31: the nibble that ISBOX returns is `invSubNibble s.par n`; that it is the only one is `invSubNibble_subNibble`. -/
theorem isboxIsTheInverseTable : Obligations.IsboxIsTheInverseTable := by
  unfold Obligations.IsboxIsTheInverseTable
  intro n s
  simp only [sboxAt_eq_subNibble]
  refine ⟨⟨invSubNibble s.par n, exec_isbox n s, ?returned, ?unique⟩, ?undone⟩
  case returned => rw [exec_sbox, subNibble_invSubNibble]
  case unique => rintro m' rfl; rw [invSubNibble_subNibble]
  case undone => rw [exec_isbox, invSubNibble_subNibble]

end Sys2Proof.Machine
end

section
/-!
PROOFS. Encoding after decoding is the identity, and the must-be-zero bits (spec/30_encoding.md R65). A format that accepts the
fields of a word gives a command whose fields the encoder lays out in the same way, so a legal word is the word of its command.
That word selects a row of R64, must-be-zero bits included, and the opcode alone says which row: hence a word with a row's opcode
and a must-be-zero bit set has no command.
-/

namespace Sys2Proof

open Sys2Proof.Spec

/-! The command that a format accepts is encoded to the fields it was read from. -/

theorem encodeFields_of_formatN {f : Fields} {op : Byte} {c i : Instr}
    (layout : encodeFields c = { op := op, cfg := 0, a := 0, b := 0 })
    (hop : f.op = op) (h : formatN f c = .ok i) : encodeFields i = f := by
  obtain ⟨hf, rfl⟩ := formatN_eq_ok.1 h
  rw [layout, hf, hop]

theorem encodeFields_of_formatNN {f : Fields} {op : Byte} {c : Nibble → Nibble → Instr} {i : Instr}
    (layout : ∀ x y, encodeFields (c x y) = { op := op, cfg := 0, a := x.setWidth 16, b := y.setWidth 16 })
    (hop : f.op = op) (h : formatNN f c = .ok i) : encodeFields i = f := by
  obtain ⟨x, y, hf, rfl⟩ := formatNN_eq_ok.1 h
  rw [layout, hf, hop]

theorem encodeFields_of_formatN1 {f : Fields} {op : Byte} {c : Nibble → Instr} {i : Instr}
    (layout : ∀ n, encodeFields (c n) = { op := op, cfg := 0, a := n.setWidth 16, b := 0 })
    (hop : f.op = op) (h : formatN1 f c = .ok i) : encodeFields i = f := by
  obtain ⟨n, hf, rfl⟩ := formatN1_eq_ok.1 h
  rw [layout, hf, hop]

theorem encodeFields_of_formatB1 {f : Fields} {op : Byte} {c : Byte → Instr} {i : Instr}
    (layout : ∀ x, encodeFields (c x) = { op := op, cfg := 0, a := x.setWidth 16, b := 0 })
    (hop : f.op = op) (h : formatB1 f c = .ok i) : encodeFields i = f := by
  obtain ⟨x, hf, rfl⟩ := formatB1_eq_ok.1 h
  rw [layout, hf, hop]

theorem encodeFields_of_formatW1 {f : Fields} {op : Byte} {c : Half → Instr} {i : Instr}
    (layout : ∀ w, encodeFields (c w) = { op := op, cfg := 0, a := w, b := 0 })
    (hop : f.op = op) (h : formatW1 f c = .ok i) : encodeFields i = f := by
  obtain ⟨hf, rfl⟩ := formatW1_eq_ok.1 h
  rw [layout, ← hop, ← hf]

theorem encodeFields_of_formatW2 {f : Fields} {op : Byte} {c : Half → Half → Instr} {i : Instr}
    (layout : ∀ w k, encodeFields (c w k) = { op := op, cfg := 0, a := w, b := k })
    (hop : f.op = op) (h : formatW2 f c = .ok i) : encodeFields i = f := by
  obtain ⟨hf, rfl⟩ := formatW2_eq_ok.1 h
  rw [layout, ← hop, ← hf]

theorem encodeFields_of_formatI {f : Fields} {op : Byte} {c : BitVec 3 → Instr} {i : Instr}
    (layout : ∀ index, encodeFields (c index) = { op := op, cfg := index.setWidth 8, a := 0, b := 0 })
    (hop : f.op = op) (h : formatI f c = .ok i) : encodeFields i = f := by
  obtain ⟨index, hf, rfl⟩ := formatI_eq_ok.1 h
  rw [layout, hf, hop]

theorem encodeFields_of_formatC1 {f : Fields} {op : Byte} {c : BitVec 2 → BitVec 3 → Half → Instr} {i : Instr}
    (layout : ∀ v r x, encodeFields (c v r x) = { op := op, cfg := configByte v r, a := x, b := 0 })
    (hop : f.op = op) (h : formatC1 f c = .ok i) : encodeFields i = f := by
  obtain ⟨v, r, hf, rfl⟩ := formatC1_eq_ok.1 h
  rw [layout, ← hop, ← hf]

/-- R69 (1): the opcode is that of the row at hand and the row's format decides, or the rows after it do. -/
theorem of_row_or_later {p goal : Prop} [Decidable p] {row later : Except Reject Instr} {i : Instr}
    (here : p → row = .ok i → goal) (there : later = .ok i → goal) (h : (if p then row else later) = .ok i) : goal := by
  split at h
  case isTrue hp => exact here hp h
  case isFalse => exact there h

/-- R61, R64, R74: the encoder lays out the fields that a command was read from, one line for each row in the order of R64. -/
theorem encodeFields_of_decodeShape {f : Fields} {i : Instr} : decodeShape f = .ok i → encodeFields i = f := by
  unfold decodeShape
  refine of_row_or_later (encodeFields_of_formatNN fun _ _ => rfl) ?_
  refine of_row_or_later (encodeFields_of_formatN1 fun _ => rfl) ?_
  refine of_row_or_later (encodeFields_of_formatN1 fun _ => rfl) ?_
  refine of_row_or_later (encodeFields_of_formatW1 fun _ => rfl) ?_
  refine of_row_or_later (encodeFields_of_formatW1 fun _ => rfl) ?_
  refine of_row_or_later (encodeFields_of_formatB1 fun _ => rfl) ?_
  refine of_row_or_later (encodeFields_of_formatW1 fun _ => rfl) ?_
  refine of_row_or_later (encodeFields_of_formatI fun _ => rfl) ?_
  refine of_row_or_later (encodeFields_of_formatW1 fun _ => rfl) ?_
  refine of_row_or_later (encodeFields_of_formatW1 fun _ => rfl) ?_
  refine of_row_or_later (encodeFields_of_formatW1 fun _ => rfl) ?_
  refine of_row_or_later (encodeFields_of_formatW1 fun _ => rfl) ?_
  refine of_row_or_later (encodeFields_of_formatW1 fun _ => rfl) ?_
  refine of_row_or_later (encodeFields_of_formatW2 fun _ _ => rfl) ?_
  refine of_row_or_later (encodeFields_of_formatW2 fun _ _ => rfl) ?_
  refine of_row_or_later (encodeFields_of_formatW2 fun _ _ => rfl) ?_
  refine of_row_or_later (encodeFields_of_formatW2 fun _ _ => rfl) ?_
  refine of_row_or_later (encodeFields_of_formatC1 fun _ _ _ => rfl) ?_
  refine of_row_or_later (encodeFields_of_formatC1 fun _ _ _ => rfl) ?_
  refine of_row_or_later (encodeFields_of_formatN rfl) ?_
  exact nofun

/-- R65: encoding after decoding is the identity on legal words. -/
theorem encode_of_decode {w : CommandWord} {i : Instr} (h : decode w = .ok i) : encode i = w := by
  have layout : encodeFields i = fieldsOf w := encodeFields_of_decodeShape (decode_eq_ok.1 h).1
  rw [encode, layout, word_fieldsOf]

namespace Laws.SelectsItsRow

/-- R64: every command selects its row. -/
theorem every_instr : (i : Instr) → Statement i
  | .gfmul x y => gfmul x y
  | .sbox n => sbox n
  | .isbox n => isbox n
  | .tostate w => tostate w
  | .toblock w => toblock w
  | .sub2nib x => sub2nib x
  | .kexp key => kexp key
  | .rdrk index => rdrk index
  | .subn w => subn w
  | .isubn w => isubn w
  | .rowsh w => rowsh w
  | .colmix w => colmix w
  | .icolmix w => icolmix w
  | .addkey w k => addkey w k
  | .round w k => round w k
  | .fround w k => fround w k
  | .iround w k => iround w k
  | .enc v r p => enc v r p
  | .dec v r c => dec v r c
  | .rdstat => rdstat

end Laws.SelectsItsRow

/-- R64: a legal word selects a row, its must-be-zero bits included. -/
theorem selects_row_of_decode {w : CommandWord} {i : Instr} (h : decode w = .ok i) :
    ∃ row ∈ rows, w &&& row.mask = row.pattern := by
  obtain ⟨row, at_rowNumber, selected⟩ := Laws.SelectsItsRow.every_instr i
  rw [encode_of_decode h] at selected
  exact ⟨row, List.mem_of_getElem? at_rowNumber, selected⟩

/-- R64: every mask keeps the whole opcode. -/
theorem mask_keeps_opcode : ∀ row ∈ rows, row.mask >>> 40 = BitVec.allOnes 48 >>> 40 := by decide

theorem opcode_of_selects {w : CommandWord} {row : Row} (hrow : row ∈ rows) (selected : w &&& row.mask = row.pattern) :
    w >>> 40 = row.pattern >>> 40 := by
  rw [← selected, BitVec.ushiftRight_and_distrib, mask_keeps_opcode row hrow, ← BitVec.ushiftRight_and_distrib,
    BitVec.and_allOnes]

/-- R64: no two rows have the same opcode. -/
theorem row_eq_of_opcode_eq :
    ∀ row ∈ rows, ∀ other ∈ rows, row.pattern >>> 40 = other.pattern >>> 40 → row = other := by decide

/-- R65: a word with the opcode of a row and a must-be-zero bit set is decoded to no command. -/
theorem decode_ne_ok_of_mustBeZero {w : CommandWord} {row : Row} (hrow : row ∈ rows)
    (hop : w >>> 40 = row.pattern >>> 40) (hbits : w &&& row.mask ≠ row.pattern) (i : Instr) : decode w ≠ .ok i := by
  intro h
  obtain ⟨other, hother, selected⟩ := selects_row_of_decode h
  have same : row = other := row_eq_of_opcode_eq row hrow other hother (hop.symm.trans (opcode_of_selects hother selected))
  exact hbits (same ▸ selected)

/-- Settles O2: the three parts are `decode_ne_ok_of_mustBeZero`, `encode_of_decode`, and the latter applied to both words. -/
theorem mustBeZeroBitsAndUniqueEncoding : Obligations.MustBeZeroBitsAndUniqueEncoding := by
  unfold Obligations.MustBeZeroBitsAndUniqueEncoding
  refine ⟨?mustBeZero, ?identity, ?unique⟩
  case mustBeZero =>
    intro w row hrow hop hbits
    cases decoded : decode w with
    | error r => exact ⟨r, rfl⟩
    | ok i => exact absurd decoded (decode_ne_ok_of_mustBeZero hrow hop hbits i)
  case identity => exact fun w i h => encode_of_decode h
  case unique => exact fun w v i hw hv => (encode_of_decode hw).symm.trans (encode_of_decode hv)

end Sys2Proof
end

section
/-!
PROOFS. The key schedule (spec/43_key_schedule.md R130 to R132, R135). The spec's slices and its byte function, written with
shifts, are the model's, so one expansion round obeys the word recurrence of R131; the four rounds of `expand` are four uses of it.
-/

namespace Sys2Proof.Machine

open Sys2Proof.Spec

/-- R10: the high half as a shift is the high half as a slice. -/
theorem hi_eq_hiByte (k : Half) : hi k = hiByte k := by
  ext i inRange
  simp [Spec.hi, hiByte]

/-- R10: the low half as a truncation is the low half as a slice. -/
theorem lo_eq_loByte (k : Half) : lo k = loByte k := by
  ext i inRange
  simp [Spec.lo, loByte]

/-- R10: two nibbles put side by side. -/
theorem shiftLeft_or_eq_append : ∀ a b : Nibble, (a.setWidth 8 <<< 4) ||| b.setWidth 8 = (a ++ b).cast (by decide) := by
  decide

/-- R130: the key-schedule byte function, as the spec writes it with a shift, is the model's. -/
theorem swapSub_eq_sub2nib (P : Params) (x : Byte) : swapSub P x = sub2nib P x := by
  have low : x.setWidth 4 = x.extractLsb' 0 4 := by ext i inRange; simp
  have high : (x >>> 4).setWidth 4 = x.extractLsb' 4 4 := by ext i inRange; simp
  rw [swapSub, sub2nib, shiftLeft_or_eq_append, low, high, sboxAt_eq_subNibble, sboxAt_eq_subNibble]

/-- R131: the even word of an expansion round. -/
theorem hi_expandRound (P : Params) (rcon : Byte) (k : Half) :
    hi (expandRound P rcon k) = hi k ^^^ rcon ^^^ swapSub P (lo k) := by
  simp only [hi_eq_hiByte, lo_eq_loByte, swapSub_eq_sub2nib, expandRound, hiByte_halfOf]

/-- R131: the odd word of an expansion round. -/
theorem lo_expandRound (P : Params) (rcon : Byte) (k : Half) :
    lo (expandRound P rcon k) = hi (expandRound P rcon k) ^^^ lo k := by
  simp only [hi_eq_hiByte, lo_eq_loByte, expandRound, hiByte_halfOf, loByte_halfOf]

/-- R132: the first round key is the key. -/
@[simp] theorem expand_k0 (P : Params) (key : Half) : (expand P key).k0 = key := halfOf_bytes key

/-! R131: each later round key is one expansion round, with its own constant, on from the round key before it. -/

theorem expand_k1 (P : Params) (key : Half) : (expand P key).k1 = expandRound P P.rcon1 (expand P key).k0 := rfl

theorem expand_k2 (P : Params) (key : Half) : (expand P key).k2 = expandRound P P.rcon2 (expand P key).k1 := rfl

theorem expand_k3 (P : Params) (key : Half) : (expand P key).k3 = expandRound P P.rcon3 (expand P key).k2 := rfl

theorem expand_k4 (P : Params) (key : Half) : (expand P key).k4 = expandRound P P.rcon4 (expand P key).k3 := rfl

/-- R135: KEXP replaces the round-key file by the expansion of its key and answers 0. -/
theorem exec_kexp (key : Half) (s : State) :
    exec (.kexp key) s = .next (answer { s with keys := some (expand s.par key) } 0) :=
  respond_eq 0 _

/-- An expansion round from `previous` to `next` obeys both equations of R131. -/
theorem recurrence_of_eq_expandRound {P : Params} {rcon : Byte} {previous next : Half}
    (h : next = expandRound P rcon previous) :
    hi next = hi previous ^^^ rcon ^^^ swapSub P (lo previous) ∧ lo next = hi next ^^^ lo previous := by
  subst h
  exact ⟨hi_expandRound P rcon previous, lo_expandRound P rcon previous⟩

/-- Settles O24: the round keys are the expansion of the key, and the recurrence holds from each of them to the next. -/
theorem kexpLoadsTheKeySchedule : Obligations.KexpLoadsTheKeySchedule := by
  unfold Obligations.KexpLoadsTheKeySchedule
  intro s key
  obtain ⟨hi1, lo1⟩ := recurrence_of_eq_expandRound (expand_k1 s.par key)
  obtain ⟨hi2, lo2⟩ := recurrence_of_eq_expandRound (expand_k2 s.par key)
  obtain ⟨hi3, lo3⟩ := recurrence_of_eq_expandRound (expand_k3 s.par key)
  obtain ⟨hi4, lo4⟩ := recurrence_of_eq_expandRound (expand_k4 s.par key)
  exact ⟨expand s.par key, exec_kexp key s, expand_k0 s.par key, hi1, lo1, hi2, lo2, hi3, lo3, hi4, lo4⟩

end Sys2Proof.Machine
end

section
/-!
PROOFS. The data of a response, and the state word as four nibbles (spec/00_scope.md R10, R11, spec/30_encoding.md R62, R72): the
slices and the packing that the spec writes with shifts are those of `unsw` and `sw`.
-/

namespace Sys2Proof.Machine

open Sys2Proof.Spec

/-- R72: a command that answers `d` has `d` as its data. -/
theorem data_eq_of_exec {i : Instr} {s : State} {d : Half} (h : exec i s = .next (answer s d)) : data i s = d := by
  simp [data, h, answer]

/-- R10: four nibbles put side by side. Compared bit by bit: a bit position belongs to one nibble, and the other three have no
bit there. -/
theorem pack_eq_append (a b c d : Nibble) : pack a b c d = (a ++ b ++ c ++ d).cast (by decide) := by
  apply BitVec.eq_of_getLsbD_eq
  intro i inRange
  simp only [pack, BitVec.getLsbD_or, BitVec.getLsbD_shiftLeft, BitVec.getLsbD_setWidth, BitVec.getLsbD_cast,
    BitVec.getLsbD_append]
  grind

/-- R11: the state word packs the State, `s0` first. -/
theorem sw_eq_pack (st : Nibbles) : sw st = pack st.s0 st.s1 st.s2 st.s3 := (pack_eq_append _ _ _ _).symm

/-- R10: a slice as a shift is the slice. -/
theorem nib_eq_extractLsb' (i : Nat) (w : Half) : nib i w = w.extractLsb' (4 * i) 4 := by
  ext j inRange
  simp [nib]

/-- R11: the State of a state word, position 0 in the highest nibble. -/
theorem unsw_eq_nib (w : Half) : unsw w = { s0 := nib 3 w, s1 := nib 2 w, s2 := nib 1 w, s3 := nib 0 w } := by
  simp only [unsw, nib_eq_extractLsb']

end Sys2Proof.Machine
end

section
/-!
PROOFS. The round commands as sequences of their step commands (spec/44_round_function.md R151 to R158, R160 to R168). Each step
command answers the state word of its operation on the State, and the next step command reads that State back (`unsw_sw`); so a
chain of step commands answers the state word of the composed operations, which is what ROUND and FROUND answer.
-/

namespace Sys2Proof.Machine

open Sys2Proof.Spec

/-! What the step commands answer. -/

theorem exec_subn (w : Half) (s : State) : exec (.subn w) s = .next (answer s (sw (subNibbles s.par (unsw w)))) :=
  respond_eq _ s

theorem exec_rowsh (w : Half) (s : State) : exec (.rowsh w) s = .next (answer s (sw (rowShift (unsw w)))) :=
  respond_eq _ s

theorem exec_colmix (w : Half) (s : State) : exec (.colmix w) s = .next (answer s (sw (columnMix (unsw w)))) :=
  respond_eq _ s

theorem exec_addkey (w k : Half) (s : State) : exec (.addkey w k) s = .next (answer s (sw (addRoundKey (unsw w) k))) :=
  respond_eq _ s

@[simp] theorem data_subn (w : Half) (s : State) : data (.subn w) s = sw (subNibbles s.par (unsw w)) :=
  data_eq_of_exec (exec_subn w s)

@[simp] theorem data_rowsh (w : Half) (s : State) : data (.rowsh w) s = sw (rowShift (unsw w)) :=
  data_eq_of_exec (exec_rowsh w s)

@[simp] theorem data_colmix (w : Half) (s : State) : data (.colmix w) s = sw (columnMix (unsw w)) :=
  data_eq_of_exec (exec_colmix w s)

@[simp] theorem data_addkey (w k : Half) (s : State) : data (.addkey w k) s = sw (addRoundKey (unsw w) k) :=
  data_eq_of_exec (exec_addkey w k s)

/-! What the two forward round commands answer. -/

theorem exec_round (w k : Half) (s : State) :
    exec (.round w k) s = .next (answer s (sw (fullRound s.par (unsw w) k))) :=
  respond_eq _ s

theorem exec_fround (w k : Half) (s : State) :
    exec (.fround w k) s = .next (answer s (sw (finalRound s.par (unsw w) k))) :=
  respond_eq _ s

/-- R157: SUBN, ROWSH, COLMIX, ADDKEY in this order are a full round. -/
theorem data_full_round_steps (w k : Half) (s : State) :
    data (.addkey (data (.colmix (data (.rowsh (data (.subn w) s)) s)) s) k) s = sw (fullRound s.par (unsw w) k) := by
  rw [data_addkey, data_colmix, data_rowsh, data_subn, unsw_sw, unsw_sw, unsw_sw, fullRound]

/-- R158: SUBN, ROWSH, ADDKEY in this order are a final round. -/
theorem data_final_round_steps (w k : Half) (s : State) :
    data (.addkey (data (.rowsh (data (.subn w) s)) s) k) s = sw (finalRound s.par (unsw w) k) := by
  rw [data_addkey, data_rowsh, data_subn, unsw_sw, unsw_sw, finalRound]

/-- Settles O41: either side answers the state word of the round (`data_full_round_steps`, `data_final_round_steps`). -/
theorem roundsAreTheirStepCommands : Obligations.RoundsAreTheirStepCommands := by
  unfold Obligations.RoundsAreTheirStepCommands
  intro w k s
  constructor
  case left => rw [exec_round, data_full_round_steps]
  case right => rw [exec_fround, data_final_round_steps]

/-- R152: the row shift is its own inverse. -/
@[simp] theorem rowShift_rowShift (st : Nibbles) : rowShift (rowShift st) = st := rfl

/-- R152: on the state word the row shift swaps the two low nibbles. -/
theorem sw_rowShift_unsw (w : Half) : sw (rowShift (unsw w)) = pack (nib 3 w) (nib 2 w) (nib 0 w) (nib 1 w) := by
  rw [sw_eq_pack, unsw_eq_nib, rowShift]

/-- Settles O36: the nibble order is `sw_rowShift_unsw`, the undoing is `rowShift_rowShift`. -/
theorem rowshSwapsTheLowNibbles : Obligations.RowshSwapsTheLowNibbles := by
  unfold Obligations.RowshSwapsTheLowNibbles
  intro w s
  constructor
  case left => rw [exec_rowsh, sw_rowShift_unsw]
  case right => rw [exec_rowsh, data_rowsh, unsw_sw, rowShift_rowShift, sw_unsw]

end Sys2Proof.Machine
end

section
/-!
PROOFS. The cipher pipeline as unit commands (spec/45_cipher_pipeline.md R181 to R185, R187). Each unit command answers the state
word of its operation, so a chain of round commands carries the state word of the cipher's State through the list of round keys
(`List.foldl_hom`); TOSTATE and TOBLOCK stand at its ends. The chain for any list of keys is proved once for the standard and once
for the lazy rounds; each configuration is then the chain with its own list.
-/

namespace Sys2Proof.Machine

open Sys2Proof.Spec

/-! What the two codec commands and the two forward round commands return. -/

theorem exec_tostate (x : Half) (s : State) : exec (.tostate x) s = .next (answer s (sw (toState x))) :=
  respond_eq _ s

theorem exec_toblock (w : Half) (s : State) : exec (.toblock w) s = .next (answer s (toBlock (unsw w))) :=
  respond_eq _ s

@[simp] theorem data_tostate (x : Half) (s : State) : data (.tostate x) s = sw (toState x) :=
  data_eq_of_exec (exec_tostate x s)

@[simp] theorem data_toblock (w : Half) (s : State) : data (.toblock w) s = toBlock (unsw w) :=
  data_eq_of_exec (exec_toblock w s)

@[simp] theorem data_round (w k : Half) (s : State) : data (.round w k) s = sw (fullRound s.par (unsw w) k) :=
  data_eq_of_exec (exec_round w k s)

@[simp] theorem data_fround (w k : Half) (s : State) : data (.fround w k) s = sw (finalRound s.par (unsw w) k) :=
  data_eq_of_exec (exec_fround w k s)

/-! The steps of the two chains, on the state word of a State. -/

/-- C6: TOSTATE and ADDKEY with K0 are the initial step of every variant. -/
theorem data_initial_steps (p : Half) (K : RoundKeys) (s : State) :
    data (.addkey (data (.tostate p) s) K.k0) s = sw (initialState p K) := by
  rw [data_addkey, data_tostate, unsw_sw, initialState]

/-- R182: ROUND with each key of a list runs the full rounds with these keys. -/
theorem foldl_data_round_sw (s : State) (keys : List Half) (st : Nibbles) :
    keys.foldl (fun w k => data (.round w k) s) (sw st) = sw (keys.foldl (fullRound s.par) st) :=
  List.foldl_hom sw fun st k => by rw [data_round, unsw_sw]

/-- R183: the unit commands of a lazy round answer its state word, for either value of LAZY_ROWSHIFT. -/
theorem lazyStep_sw (s : State) (st : Nibbles) (k : Half) : lazyStep s (sw st) k = sw (lazyRound s.par st k) := by
  unfold lazyStep lazyRound
  cases s.par.lazyRowShift with
  | false => simp [unsw_sw]
  | true => simp [unsw_sw]

/-- R183, R184: the lazy steps with each key of a list run the lazy rounds with these keys. -/
theorem foldl_lazyStep_sw (s : State) (keys : List Half) (st : Nibbles) :
    keys.foldl (lazyStep s) (sw st) = sw (keys.foldl (lazyRound s.par) st) :=
  List.foldl_hom sw (lazyStep_sw s)

/-! The two chains, for any list of round keys. -/

/-- R182: the unit commands with any keys for the full rounds and the final round. -/
theorem standardChain_eq (s : State) (K : RoundKeys) (p : Half) (full : List Half) (last : Half) :
    standardChain s K.k0 p full last =
      toBlock (finalRound s.par (full.foldl (fullRound s.par) (initialState p K)) last) := by
  rw [standardChain, data_initial_steps, foldl_data_round_sw, data_fround, unsw_sw, data_toblock, unsw_sw]

/-- R183, R184: the unit commands with any keys for the lazy rounds. -/
theorem lazyChain_eq (s : State) (K : RoundKeys) (p : Half) (keys : List Half) :
    lazyChain s K.k0 p keys = toBlock (keys.foldl (lazyRound s.par) (initialState p K)) := by
  rw [lazyChain, data_initial_steps, foldl_lazyStep_sw, data_toblock, unsw_sw]

/-! ENC with the round keys loaded. -/

/-- R187: ENC of a legal configuration answers the ciphertext of R185. -/
theorem exec_enc {s : State} {ks : RoundKeys} {v : BitVec 2} {r : BitVec 3} {cc : CipherConfig} (p : Half)
    (loaded : s.keys = some ks) (config : configOf v r = some cc) :
    exec (.enc v r p) s = .next (answer s (encrypt s.par p ks cc)) := by
  have configured : exec (.enc v r p) s = withKeys s fun K => respond (encrypt s.par p K cc) s := by
    simp only [exec, execEnc, config]
  rw [configured, withKeys_some s ks _ loaded, respond_eq]

/-- R182: ENC under Standard is the standard chain with K1 to K(R-1) in its full rounds and K_R in its final round. -/
theorem exec_enc_standard {s : State} {ks : RoundKeys} {v : BitVec 2} {r : BitVec 3} (p : Half) (R : RoundCount)
    (loaded : s.keys = some ks) (config : configOf v r = some { variant := .standard, rounds := R }) :
    exec (.enc v r p) s = .next (answer s (standardChain s ks.k0 p (ks.later.take (R.toNat - 1)) (ks.last R))) := by
  rw [exec_enc p loaded config, encrypt, encryptStandard, standardChain_eq]

/-- R184: ENC under VeryLazy is the lazy chain with K0 in each of its R rounds. -/
theorem exec_enc_veryLazy {s : State} {ks : RoundKeys} {v : BitVec 2} {r : BitVec 3} (p : Half) (R : RoundCount)
    (loaded : s.keys = some ks) (config : configOf v r = some { variant := .veryLazy, rounds := R }) :
    exec (.enc v r p) s = .next (answer s (lazyChain s ks.k0 p (List.replicate R.toNat ks.k0))) := by
  rw [exec_enc p loaded config, encrypt, encryptVeryLazy, lazyChain_eq]

/-- Settles O45: `exec_enc_standard` at the four round counts, where the keys it names are the lists of the statement. -/
theorem encStandardIsItsRounds : Obligations.EncStandardIsItsRounds := by
  unfold Obligations.EncStandardIsItsRounds
  intro s ks p loaded
  exact ⟨exec_enc_standard p .one loaded rfl, exec_enc_standard p .two loaded rfl,
    exec_enc_standard p .three loaded rfl, exec_enc_standard p .four loaded rfl⟩

/-- Settles O47: `exec_enc_veryLazy` at the four round counts. -/
theorem encVeryLazyReusesTheFirstKey : Obligations.EncVeryLazyReusesTheFirstKey := by
  unfold Obligations.EncVeryLazyReusesTheFirstKey
  intro s ks p loaded
  exact ⟨exec_enc_veryLazy p .one loaded rfl, exec_enc_veryLazy p .two loaded rfl,
    exec_enc_veryLazy p .three loaded rfl, exec_enc_veryLazy p .four loaded rfl⟩

end Sys2Proof.Machine
end

section
/-!
PROOFS. The legal words are those that decode to a command (spec/30_encoding.md R64, R66, R67, R69). A word that selects a row
of R64 has the row's opcode and the zeros the row's format asks for, so the row's format reads a command from it; the operands of
that command are legal exactly when the row's constraint holds. There is one lemma for each format, and each row is a use of one.
-/

namespace Sys2Proof

open Sys2Proof.Spec

/-! What a mask says of the four fields and of their slices. -/

/-- R60, R64: a row whose pattern is an opcode alone masks each field of the words that select it. -/
theorem fields_of_selects {w mask : CommandWord} {op : Byte} (h : w &&& mask = Fields.word ⟨op, 0, 0, 0⟩) :
    (fieldsOf w).op &&& (fieldsOf mask).op = op ∧ (fieldsOf w).cfg &&& (fieldsOf mask).cfg = 0 ∧
      (fieldsOf w).a &&& (fieldsOf mask).a = 0 ∧ (fieldsOf w).b &&& (fieldsOf mask).b = 0 := by
  have fields := congrArg fieldsOf h
  rw [fieldsOf_word] at fields
  simpa only [fieldsOf, BitVec.extractLsb'_and, Fields.mk.injEq] using fields

theorem eq_of_and_allOnes {n : Nat} {x mask value : BitVec n} (kept : mask = BitVec.allOnes n) (h : x &&& mask = value) :
    x = value := by
  rw [← h, kept, BitVec.and_allOnes]

/-- R65: a slice that a mask keeps whole is 0 where the masked value is. -/
theorem slice_eq_zero {n start len : Nat} {x mask : BitVec n} (kept : mask.extractLsb' start len = BitVec.allOnes len)
    (h : x &&& mask = 0) : x.extractLsb' start len = 0 := by
  have sliced := congrArg (BitVec.extractLsb' start len) h
  rw [BitVec.extractLsb'_and] at sliced
  simpa using eq_of_and_allOnes kept sliced

/-! The constraints of R66 and R67 are the legality of the operands that I and C1 read from `cfg`. -/

theorem toNat_cfg_low (w : CommandWord) : ((fieldsOf w).cfg.extractLsb' 0 3).toNat = w.toNat / 2 ^ 32 % 8 := by
  simp only [fieldsOf, BitVec.extractLsb'_toNat, Nat.shiftRight_eq_div_pow]
  omega

theorem toNat_cfg_variant (w : CommandWord) : ((fieldsOf w).cfg.extractLsb' 4 2).toNat = w.toNat / 2 ^ 36 % 4 := by
  simp only [fieldsOf, BitVec.extractLsb'_toNat, Nat.shiftRight_eq_div_pow]
  omega

theorem legalKeyIndex_cfg (w : CommandWord) :
    legalKeyIndex ((fieldsOf w).cfg.extractLsb' 0 3) = Constraint.keyIndex.holds w := by
  rw [legalKeyIndex, toNat_cfg_low, Constraint.holds]

theorem legalConfig_cfg (w : CommandWord) :
    (legalVariant ((fieldsOf w).cfg.extractLsb' 4 2) && legalRounds ((fieldsOf w).cfg.extractLsb' 0 3)) =
      Constraint.config.holds w := by
  rw [legalVariant, legalRounds, toNat_cfg_low, toNat_cfg_variant, Constraint.holds, ← Bool.decide_and]
  exact decide_eq_decide.2 (by tauto)

/-! A format reads a word whose must-be-zero slices are 0 (`ifZero`), and a mask keeps exactly these slices. So a word that selects
a row is read under the row's constraint: one lemma for each format of R61. -/

/-- R69 (1), (2): the word is read as a command, whose operands are legal exactly when `k` holds of the word. -/
def IsReadUnder (k : Constraint) (w : CommandWord) : Prop :=
  ∃ i, decodeShape (fieldsOf w) = .ok i ∧ i.wellFormed = k.holds w

section FormatReads

variable {w : CommandWord} {op : Byte}

/-- R69 (1): `format` reads every word whose opcode is `op`. -/
def ReadsOpcode (op : Byte) (format : Fields → Except Reject Instr) : Prop :=
  ∀ cfg a b, decodeShape ⟨op, cfg, a, b⟩ = format ⟨op, cfg, a, b⟩

theorem isReadUnder_of_ifZero {format : Fields → Except Reject Instr} {zero : Bool} {i : Instr} {k : Constraint}
    (select : ReadsOpcode op format) (hop : (fieldsOf w).op = op) (read : format (fieldsOf w) = ifZero zero i)
    (hzero : zero = true) (legal : i.wellFormed = k.holds w) : IsReadUnder k w := by
  subst hop
  exact ⟨i, ((select _ _ _).trans read).trans (ifZero_eq_ok.2 ⟨hzero, rfl⟩), legal⟩

theorem isReadUnder_formatN {c : Instr} (select : ReadsOpcode op (formatN · c))
    (legal : c.wellFormed = true)
    (h : w &&& 0xFFFFFFFFFFFF = Fields.word ⟨op, 0, 0, 0⟩) : IsReadUnder .free w := by
  obtain ⟨hop, hcfg, ha, hb⟩ := fields_of_selects h
  exact isReadUnder_of_ifZero select (eq_of_and_allOnes rfl hop) rfl
    (by simp [eq_of_and_allOnes rfl hcfg, eq_of_and_allOnes rfl ha, eq_of_and_allOnes rfl hb]) legal

theorem isReadUnder_formatNN {c : Nibble → Nibble → Instr} (select : ReadsOpcode op (formatNN · c))
    (legal : ∀ x y, (c x y).wellFormed = true)
    (h : w &&& 0xFFFFFFF0FFF0 = Fields.word ⟨op, 0, 0, 0⟩) : IsReadUnder .free w := by
  obtain ⟨hop, hcfg, ha, hb⟩ := fields_of_selects h
  exact isReadUnder_of_ifZero select (eq_of_and_allOnes rfl hop) rfl
    (by simp [eq_of_and_allOnes rfl hcfg, slice_eq_zero (start := 4) (len := 12) rfl ha,
      slice_eq_zero (start := 4) (len := 12) rfl hb])
    (legal _ _)

theorem isReadUnder_formatN1 {c : Nibble → Instr} (select : ReadsOpcode op (formatN1 · c))
    (legal : ∀ n, (c n).wellFormed = true)
    (h : w &&& 0xFFFFFFF0FFFF = Fields.word ⟨op, 0, 0, 0⟩) : IsReadUnder .free w := by
  obtain ⟨hop, hcfg, ha, hb⟩ := fields_of_selects h
  exact isReadUnder_of_ifZero select (eq_of_and_allOnes rfl hop) rfl
    (by simp [eq_of_and_allOnes rfl hcfg, slice_eq_zero (start := 4) (len := 12) rfl ha, eq_of_and_allOnes rfl hb])
    (legal _)

theorem isReadUnder_formatB1 {c : Byte → Instr} (select : ReadsOpcode op (formatB1 · c))
    (legal : ∀ x, (c x).wellFormed = true)
    (h : w &&& 0xFFFFFF00FFFF = Fields.word ⟨op, 0, 0, 0⟩) : IsReadUnder .free w := by
  obtain ⟨hop, hcfg, ha, hb⟩ := fields_of_selects h
  exact isReadUnder_of_ifZero select (eq_of_and_allOnes rfl hop) rfl
    (by simp [eq_of_and_allOnes rfl hcfg, slice_eq_zero (start := 8) (len := 8) rfl ha, eq_of_and_allOnes rfl hb])
    (legal _)

theorem isReadUnder_formatW1 {c : Half → Instr} (select : ReadsOpcode op (formatW1 · c))
    (legal : ∀ x, (c x).wellFormed = true)
    (h : w &&& 0xFFFF0000FFFF = Fields.word ⟨op, 0, 0, 0⟩) : IsReadUnder .free w := by
  obtain ⟨hop, hcfg, -, hb⟩ := fields_of_selects h
  exact isReadUnder_of_ifZero select (eq_of_and_allOnes rfl hop) rfl
    (by simp [eq_of_and_allOnes rfl hcfg, eq_of_and_allOnes rfl hb]) (legal _)

theorem isReadUnder_formatW2 {c : Half → Half → Instr} (select : ReadsOpcode op (formatW2 · c))
    (legal : ∀ x k, (c x k).wellFormed = true)
    (h : w &&& 0xFFFF00000000 = Fields.word ⟨op, 0, 0, 0⟩) : IsReadUnder .free w := by
  obtain ⟨hop, hcfg, -, -⟩ := fields_of_selects h
  exact isReadUnder_of_ifZero select (eq_of_and_allOnes rfl hop) rfl
    (by simp [eq_of_and_allOnes rfl hcfg]) (legal _ _)

theorem isReadUnder_formatI {c : BitVec 3 → Instr} (select : ReadsOpcode op (formatI · c))
    (legal : ∀ index, (c index).wellFormed = legalKeyIndex index)
    (h : w &&& 0xFFF8FFFFFFFF = Fields.word ⟨op, 0, 0, 0⟩) : IsReadUnder .keyIndex w := by
  obtain ⟨hop, hcfg, ha, hb⟩ := fields_of_selects h
  exact isReadUnder_of_ifZero select (eq_of_and_allOnes rfl hop) rfl
    (by simp [slice_eq_zero (start := 3) (len := 5) rfl hcfg, eq_of_and_allOnes rfl ha, eq_of_and_allOnes rfl hb])
    ((legal _).trans (legalKeyIndex_cfg w))

theorem isReadUnder_formatC1 {c : BitVec 2 → BitVec 3 → Half → Instr} (select : ReadsOpcode op (formatC1 · c))
    (legal : ∀ v r x, (c v r x).wellFormed = (legalVariant v && legalRounds r))
    (h : w &&& 0xFFC80000FFFF = Fields.word ⟨op, 0, 0, 0⟩) : IsReadUnder .config w := by
  obtain ⟨hop, hcfg, -, hb⟩ := fields_of_selects h
  exact isReadUnder_of_ifZero select (eq_of_and_allOnes rfl hop) rfl
    (by simp [slice_eq_zero (start := 6) (len := 2) rfl hcfg,
      slice_eq_zero (start := 3) (len := 1) rfl hcfg, eq_of_and_allOnes rfl hb])
    ((legal _ _ _).trans (legalConfig_cfg w))

end FormatReads

/-- R64, R69: a word that selects a row is read under the row's constraint, one line for each row in the order of R64. -/
theorem isReadUnder_of_selects (w : CommandWord) :
    ∀ row ∈ rows, w &&& row.mask = row.pattern → IsReadUnder row.constraint w := by
  refine List.forall_mem_cons.2 ⟨isReadUnder_formatNN (op := 0x01) (c := .gfmul) (fun _ _ _ => rfl) (fun _ _ => rfl), ?_⟩
  refine List.forall_mem_cons.2 ⟨isReadUnder_formatN1 (op := 0x02) (c := .sbox) (fun _ _ _ => rfl) (fun _ => rfl), ?_⟩
  refine List.forall_mem_cons.2 ⟨isReadUnder_formatN1 (op := 0x03) (c := .isbox) (fun _ _ _ => rfl) (fun _ => rfl), ?_⟩
  refine List.forall_mem_cons.2 ⟨isReadUnder_formatW1 (op := 0x04) (c := .tostate) (fun _ _ _ => rfl) (fun _ => rfl), ?_⟩
  refine List.forall_mem_cons.2 ⟨isReadUnder_formatW1 (op := 0x05) (c := .toblock) (fun _ _ _ => rfl) (fun _ => rfl), ?_⟩
  refine List.forall_mem_cons.2 ⟨isReadUnder_formatB1 (op := 0x06) (c := .sub2nib) (fun _ _ _ => rfl) (fun _ => rfl), ?_⟩
  refine List.forall_mem_cons.2 ⟨isReadUnder_formatW1 (op := 0x07) (c := .kexp) (fun _ _ _ => rfl) (fun _ => rfl), ?_⟩
  refine List.forall_mem_cons.2 ⟨isReadUnder_formatI (op := 0x08) (c := .rdrk) (fun _ _ _ => rfl) (fun _ => rfl), ?_⟩
  refine List.forall_mem_cons.2 ⟨isReadUnder_formatW1 (op := 0x10) (c := .subn) (fun _ _ _ => rfl) (fun _ => rfl), ?_⟩
  refine List.forall_mem_cons.2 ⟨isReadUnder_formatW1 (op := 0x11) (c := .isubn) (fun _ _ _ => rfl) (fun _ => rfl), ?_⟩
  refine List.forall_mem_cons.2 ⟨isReadUnder_formatW1 (op := 0x12) (c := .rowsh) (fun _ _ _ => rfl) (fun _ => rfl), ?_⟩
  refine List.forall_mem_cons.2 ⟨isReadUnder_formatW1 (op := 0x13) (c := .colmix) (fun _ _ _ => rfl) (fun _ => rfl), ?_⟩
  refine List.forall_mem_cons.2 ⟨isReadUnder_formatW1 (op := 0x14) (c := .icolmix) (fun _ _ _ => rfl) (fun _ => rfl), ?_⟩
  refine List.forall_mem_cons.2 ⟨isReadUnder_formatW2 (op := 0x15) (c := .addkey) (fun _ _ _ => rfl) (fun _ _ => rfl), ?_⟩
  refine List.forall_mem_cons.2 ⟨isReadUnder_formatW2 (op := 0x16) (c := .round) (fun _ _ _ => rfl) (fun _ _ => rfl), ?_⟩
  refine List.forall_mem_cons.2 ⟨isReadUnder_formatW2 (op := 0x17) (c := .fround) (fun _ _ _ => rfl) (fun _ _ => rfl), ?_⟩
  refine List.forall_mem_cons.2 ⟨isReadUnder_formatW2 (op := 0x18) (c := .iround) (fun _ _ _ => rfl) (fun _ _ => rfl), ?_⟩
  refine List.forall_mem_cons.2 ⟨isReadUnder_formatC1 (op := 0x20) (c := .enc) (fun _ _ _ => rfl) (fun _ _ _ => rfl), ?_⟩
  refine List.forall_mem_cons.2 ⟨isReadUnder_formatC1 (op := 0x21) (c := .dec) (fun _ _ _ => rfl) (fun _ _ _ => rfl), ?_⟩
  refine List.forall_mem_cons.2 ⟨isReadUnder_formatN (op := 0x30) (c := .rdstat) (fun _ _ _ => rfl) rfl, ?_⟩
  exact nofun

/-- R64, R69: the legal words are those that are decoded. -/
theorem legal_iff_decode_ok {w : CommandWord} : Legal w ↔ ∃ i, decode w = .ok i := by
  constructor
  case mp =>
    rintro ⟨row, hrow, selected, holds⟩
    obtain ⟨i, shape, legal⟩ := isReadUnder_of_selects w row hrow selected
    exact ⟨i, decode_eq_ok.2 ⟨shape, legal.trans holds⟩⟩
  case mpr =>
    rintro ⟨i, decoded⟩
    obtain ⟨row, hrow, selected⟩ := selects_row_of_decode decoded
    obtain ⟨j, shape, legal⟩ := isReadUnder_of_selects w row hrow selected
    obtain ⟨shape', wellFormed⟩ := decode_eq_ok.1 decoded
    obtain rfl : i = j := Except.ok.inj (shape'.symm.trans shape)
    exact ⟨row, hrow, selected, legal.symm.trans wellFormed⟩

end Sys2Proof
end

section
/-!
PROOFS. How a command ends (spec/60_exceptions.md R210 to R216). The fault order of R214 (`verdict`) gives the status of the
response to every command; with a fault the command does what R215 says, with OK it answers and writes at most the round keys
(`exec_endsWith_verdict`). Each statement about faults is then a statement about `verdict`.
-/

namespace Sys2Proof.Machine

open Sys2Proof.Spec

/-- R62, R215: the command run in `s` ends as `result`, its response has the given status, and if it is not at fault the round
keys are then `K`; every other field is as it was. -/
def EndsWith (s : State) (K : Option RoundKeys) (result : Result) : Status → Prop
  | .ok => ∃ d, result = .next (answer { s with keys := K } d)
  | .fault c => result = .next (faulted s c)

/-- R62: there is one response, and it has the status. -/
theorem EndsWith.response {s : State} {K : Option RoundKeys} {result : Result} :
    {status : Status} → EndsWith s K result status →
      ∃ t r, result = .next t ∧ t.responses = s.responses ++ [r] ∧ r.status = status
  | .ok, ⟨_, h⟩ => ⟨_, _, h, rfl, rfl⟩
  | .fault _, h => ⟨_, _, h, rfl, rfl⟩

/-- R62: the status of the one response is the status that the command ends with. -/
theorem EndsWith.status_eq {s t : State} {K : Option RoundKeys} {status : Status} {r : Response}
    (ends : EndsWith s K (.next t) status) (responded : t.responses = s.responses ++ [r]) : status = r.status := by
  obtain ⟨u, q, next, responses, rfl⟩ := ends.response
  cases next
  have same : q = r := by simpa using responses.symm.trans responded
  rw [same]

/-- R213: the status of a command that reads RK, once it has been found legal and supported. -/
def keyStatus (s : State) : Status := if s.keys = none then .fault .noKey else .ok

/-- R213: a command that reads RK raises NO_KEY or answers, and keeps the round keys. -/
theorem endsWith_withKeys (s : State) (value : RoundKeys → Half) :
    EndsWith s s.keys (withKeys s fun ks => respond (value ks) s) (keyStatus s) := by
  rw [keyStatus]
  cases loaded : s.keys with
  | none => exact withKeys_none s _ loaded
  | some ks =>
    refine ⟨value ks, ?_⟩
    rw [withKeys_some s ks _ loaded, respond_eq, ← loaded]

/-! The operands of RDRK, ENC and DEC denote an index or a configuration exactly when they are legal. -/

theorem keyIndexOf_eq_none {index : BitVec 3} (h : legalKeyIndex index = false) : keyIndexOf index = none := by
  rwa [← keyIndexOf_isSome, Option.isSome_eq_false_iff, Option.isNone_iff_eq_none] at h

theorem exists_keyIndexOf {index : BitVec 3} (h : legalKeyIndex index = true) : ∃ k, keyIndexOf index = some k := by
  rwa [← keyIndexOf_isSome, Option.isSome_iff_exists] at h

theorem configOf_eq_none {v : BitVec 2} {r : BitVec 3} (h : (legalVariant v && legalRounds r) = false) :
    configOf v r = none := by
  rwa [← configOf_isSome, Option.isSome_eq_false_iff, Option.isNone_iff_eq_none] at h

theorem exists_configOf {v : BitVec 2} {r : BitVec 3} (h : (legalVariant v && legalRounds r) = true) :
    ∃ cc, configOf v r = some cc := by
  rwa [← configOf_isSome, Option.isSome_iff_exists] at h

/-! How a command ends, in the order of R214. -/

/-- R211: a command with an illegal operand raises ILLEGAL_COMMAND; only RDRK, ENC and DEC can have one. -/
theorem exec_of_illFormed {i : Instr} (s : State) (h : i.wellFormed = false) :
    exec i s = .next (faulted s .illegalCommand) := by
  rw [← raise_eq]
  cases i with
  | rdrk index => simp only [exec, execRdrk, keyIndexOf_eq_none h]
  | enc v r p => simp only [exec, execEnc, configOf_eq_none h]
  | dec v r c => simp only [exec, execDec, configOf_eq_none h]
  | _ => cases h

theorem exec_rdrk_endsWith {index : BitVec 3} (s : State) (h : legalKeyIndex index = true) :
    EndsWith s s.keys (exec (.rdrk index) s) (keyStatus s) := by
  obtain ⟨k, found⟩ := exists_keyIndexOf h
  simp only [exec, execRdrk, found]
  exact endsWith_withKeys s (·.read k)

theorem exec_enc_endsWith {v : BitVec 2} {r : BitVec 3} (p : Half) (s : State)
    (h : (legalVariant v && legalRounds r) = true) :
    EndsWith s s.keys (exec (.enc v r p) s) (keyStatus s) := by
  obtain ⟨cc, config⟩ := exists_configOf h
  simp only [exec, execEnc, config]
  exact endsWith_withKeys s (encrypt s.par p · cc)

theorem exec_dec_endsWith {v : BitVec 2} {r : BitVec 3} (c : Half) (s : State)
    (h : (legalVariant v && legalRounds r) = true) :
    EndsWith s s.keys (exec (.dec v r c) s)
      (if ¬(v = 0 ∧ r = 2) then .fault .unsupportedConfig else keyStatus s) := by
  obtain ⟨cc, config⟩ := exists_configOf h
  have standard : cc = standard2 ↔ v = 0 ∧ r = 2 := by rw [← configOf_eq_standard2, config, Option.some.injEq]
  simp only [exec, execDec, config, standard]
  split
  case isTrue => exact endsWith_withKeys s (decrypt s.par c)
  case isFalse => exact raise_eq .unsupportedConfig s

/-! The fault order of R214, one equation for each command it treats apart; every other command is `.ok` by definition. -/

theorem verdict_of_illFormed {i : Instr} (s : State) (h : i.wellFormed = false) :
    verdict i s = .fault .illegalCommand :=
  if_pos h

theorem verdict_rdrk {index : BitVec 3} (s : State) (h : (Instr.rdrk index).wellFormed = true) :
    verdict (.rdrk index) s = keyStatus s :=
  if_neg (ne_false_of_eq_true h)

theorem verdict_enc {v : BitVec 2} {r : BitVec 3} {p : Half} (s : State) (h : (Instr.enc v r p).wellFormed = true) :
    verdict (.enc v r p) s = keyStatus s :=
  if_neg (ne_false_of_eq_true h)

theorem verdict_dec {v : BitVec 2} {r : BitVec 3} {c : Half} (s : State) (h : (Instr.dec v r c).wellFormed = true) :
    verdict (.dec v r c) s = if ¬(v = 0 ∧ r = 2) then .fault .unsupportedConfig else keyStatus s :=
  if_neg (ne_false_of_eq_true h)

/-- R22, R135: the round keys after a command that is not at fault. -/
def keysAfter : Instr → State → Option RoundKeys
  | .kexp key, s => some (expand s.par key)
  | _, s => s.keys

/-- R214, R215: a command ends with the status that the fault order gives. -/
theorem exec_endsWith_verdict (i : Instr) (s : State) : EndsWith s (keysAfter i s) (exec i s) (verdict i s) := by
  cases wellFormed : i.wellFormed with
  | false =>
    rw [verdict_of_illFormed s wellFormed]
    exact exec_of_illFormed s wellFormed
  | true =>
    cases i with
    | rdrk index =>
      rw [verdict_rdrk s wellFormed]
      exact exec_rdrk_endsWith s wellFormed
    | enc v r p =>
      rw [verdict_enc s wellFormed]
      exact exec_enc_endsWith p s wellFormed
    | dec v r c =>
      rw [verdict_dec s wellFormed]
      exact exec_dec_endsWith c s wellFormed
    | _ => exact ⟨_, rfl⟩

theorem keyStatus_eq_fault {s : State} {c : FaultCode} (h : keyStatus s = .fault c) : c = .noKey ∧ s.keys = none := by
  unfold keyStatus at h
  split at h
  case isTrue noKeys => exact ⟨(Status.fault.inj h).symm, noKeys⟩
  case isFalse => cases h

/-- R222: which command can raise which fault, and when. -/
theorem verdict_eq_fault {i : Instr} {s : State} {c : FaultCode} (h : verdict i s = .fault c) :
    (c = .illegalCommand ∧ i.wellFormed = false) ∨
      (c = .unsupportedConfig ∧ ∃ v r x, i = .dec v r x ∧ ¬(v = 0 ∧ r = 2)) ∨
        (c = .noKey ∧ readsKeys i = true ∧ s.keys = none) := by
  cases wellFormed : i.wellFormed with
  | false =>
    rw [verdict_of_illFormed s wellFormed] at h
    exact .inl ⟨(Status.fault.inj h).symm, rfl⟩
  | true =>
    refine .inr ?_
    cases i with
    | rdrk index =>
      rw [verdict_rdrk s wellFormed] at h
      obtain ⟨code, noKeys⟩ := keyStatus_eq_fault h
      exact .inr ⟨code, rfl, noKeys⟩
    | enc v r p =>
      rw [verdict_enc s wellFormed] at h
      obtain ⟨code, noKeys⟩ := keyStatus_eq_fault h
      exact .inr ⟨code, rfl, noKeys⟩
    | dec v r x =>
      rw [verdict_dec s wellFormed] at h
      split at h
      case isTrue other => exact .inl ⟨(Status.fault.inj h).symm, v, r, x, rfl, other⟩
      case isFalse =>
        obtain ⟨code, noKeys⟩ := keyStatus_eq_fault h
        exact .inr ⟨code, rfl, noKeys⟩
    | _ => cases h

/-- R211: a legal command does not raise ILLEGAL_COMMAND. -/
theorem verdict_ne_illegalCommand {i : Instr} (s : State) (wellFormed : i.wellFormed = true) :
    verdict i s ≠ .fault .illegalCommand := by
  intro h
  obtain ⟨-, illFormed⟩ | ⟨code, -⟩ | ⟨code, -⟩ := verdict_eq_fault h
  · exact ne_false_of_eq_true wellFormed illFormed
  · cases code
  · cases code

/-! A command word at the port. -/

/-- R48: the next step runs the word that the host presents. -/
theorem step_eq_runWord {s : State} {w : CommandWord} {rest : List HostEvent} (h : s.inputs = .command w :: rest) :
    step s = runWord w { s with inputs := rest } :=
  takeEvent_cons s (.command w) rest h

/-- R211, R214: a word ends as its command does, or with ILLEGAL_COMMAND. -/
theorem exists_runWord_endsWith (w : CommandWord) (s : State) : ∃ K status, EndsWith s K (runWord w s) status := by
  cases decoded : decode w with
  | ok i =>
    rw [runWord_ok s decoded]
    exact ⟨_, _, exec_endsWith_verdict i s⟩
  | error r =>
    rw [runWord_error s decoded]
    exact ⟨s.keys, .fault .illegalCommand, rfl⟩

/-- Settles O7: an illegal word is not decoded (`legal_iff_decode_ok`); a legal one runs a well-formed command, which ends with
the status of the fault order, and that is not ILLEGAL_COMMAND. -/
theorem illegalCommandExactlyForIllegalWords : Obligations.IllegalCommandExactlyForIllegalWords := by
  unfold Obligations.IllegalCommandExactlyForIllegalWords
  intro s w rest presented
  rw [step_eq_runWord presented]
  constructor
  case left =>
    intro illegal
    cases decoded : decode w with
    | ok i => exact absurd (legal_iff_decode_ok.2 ⟨i, decoded⟩) illegal
    | error r => exact runWord_error _ decoded
  case right =>
    intro legal
    obtain ⟨i, decoded⟩ := legal_iff_decode_ok.1 legal
    obtain ⟨-, wellFormed⟩ := decode_eq_ok.1 decoded
    rw [runWord_ok _ decoded]
    obtain ⟨t, r, next, responded, status⟩ := (exec_endsWith_verdict i { s with inputs := rest }).response
    exact ⟨t, r, next, responded, status ▸ verdict_ne_illegalCommand _ wellFormed⟩

/-- Settles O8: the word ends with the status of its response, here a fault, and `EndsWith` says what a fault does. -/
theorem faultingCommandWritesOnlyErr : Obligations.FaultingCommandWritesOnlyErr := by
  unfold Obligations.FaultingCommandWritesOnlyErr
  intro s t w rest r c presented next responded fault
  obtain ⟨K, status, ends⟩ := exists_runWord_endsWith w { s with inputs := rest }
  rw [← step_eq_runWord presented, next] at ends
  have status_fault : status = .fault c := (ends.status_eq responded).trans fault
  subst status_fault
  exact Host.Outcome.next.inj ends

/-- Settles O14: UNSUPPORTED_CONFIG is the verdict on such a DEC (`verdict_dec`), and on no other command (`verdict_eq_fault`). -/
theorem unsupportedConfigExactlyForDec : Obligations.UnsupportedConfigExactlyForDec := by
  unfold Obligations.UnsupportedConfigExactlyForDec
  constructor
  case left =>
    intro v r c s wellFormed other
    have ends := exec_endsWith_verdict (.dec v r c) s
    rwa [verdict_dec s wellFormed, if_pos other] at ends
  case right =>
    intro i s t d next responded
    have ends := exec_endsWith_verdict i s
    rw [next] at ends
    obtain ⟨code, -⟩ | ⟨-, dec⟩ | ⟨code, -⟩ := verdict_eq_fault (ends.status_eq responded)
    · cases code
    · exact dec
    · cases code

end Sys2Proof.Machine
end

section
/-!
PROOFS. Decoding after encoding (spec/30_encoding.md R61, R64, R66, R69, R74). The encoder lays out the fields of a command as the
format of its row reads them, so the shape of the word is that command (`decodeShape_encodeFields`), and step (3) of R69 is all that
can refuse it.
-/

namespace Sys2Proof

/-! The formats N, W1 and W2 cut no slice out of a field: each reads the fields as the encoder fills them. -/

theorem formatN_fields (op : Byte) (c : Instr) : formatN ⟨op, 0, 0, 0⟩ c = .ok c :=
  formatN_eq_ok.2 ⟨rfl, rfl⟩

theorem formatW1_fields (op : Byte) (c : Half → Instr) (w : Half) : formatW1 ⟨op, 0, w, 0⟩ c = .ok (c w) :=
  formatW1_eq_ok.2 ⟨rfl, rfl⟩

theorem formatW2_fields (op : Byte) (c : Half → Half → Instr) (w k : Half) :
    formatW2 ⟨op, 0, w, k⟩ c = .ok (c w k) :=
  formatW2_eq_ok.2 ⟨rfl, rfl⟩

/-- R61, R64, R74: the fields of every command, ill-formed ones included, are read in the format of its row as that command. -/
theorem decodeShape_encodeFields : (i : Instr) → decodeShape (encodeFields i) = .ok i
  | .gfmul x y => formatNN_eq_ok.2 ⟨x, y, rfl, rfl⟩
  | .sbox n => formatN1_eq_ok.2 ⟨n, rfl, rfl⟩
  | .isbox n => formatN1_eq_ok.2 ⟨n, rfl, rfl⟩
  | .tostate w => formatW1_fields 0x04 .tostate w
  | .toblock w => formatW1_fields 0x05 .toblock w
  | .sub2nib x => formatB1_eq_ok.2 ⟨x, rfl, rfl⟩
  | .kexp w => formatW1_fields 0x07 .kexp w
  | .rdrk index => formatI_eq_ok.2 ⟨index, rfl, rfl⟩
  | .subn w => formatW1_fields 0x10 .subn w
  | .isubn w => formatW1_fields 0x11 .isubn w
  | .rowsh w => formatW1_fields 0x12 .rowsh w
  | .colmix w => formatW1_fields 0x13 .colmix w
  | .icolmix w => formatW1_fields 0x14 .icolmix w
  | .addkey w k => formatW2_fields 0x15 .addkey w k
  | .round w k => formatW2_fields 0x16 .round w k
  | .fround w k => formatW2_fields 0x17 .fround w k
  | .iround w k => formatW2_fields 0x18 .iround w k
  | .enc v r _ => formatC1_eq_ok.2 ⟨v, r, rfl, rfl⟩
  | .dec v r _ => formatC1_eq_ok.2 ⟨v, r, rfl, rfl⟩
  | .rdstat => formatN_fields 0x30 .rdstat

/-- R69, R74: of the three steps of decoding only the check of the operands can refuse the word of a command. -/
theorem decode_encode (i : Instr) : decode (encode i) = checkOperands i := by
  simp only [decode, encode, fieldsOf_word, decodeShape_encodeFields]

/-- Settles O1: `decode_encode`, where `checkOperands` is the `if` of the statement. -/
theorem decodeUndoesEncode : Obligations.DecodeUndoesEncode := by
  unfold Obligations.DecodeUndoesEncode
  exact decode_encode

theorem decode_encode_of_wellFormed {i : Instr} (h : i.wellFormed = true) : decode (encode i) = .ok i := by
  rw [decode_encode, checkOperands, if_pos h]

theorem decode_encode_of_illFormed {i : Instr} (h : i.wellFormed = false) :
    decode (encode i) = .error .reservedOperand := by
  rw [decode_encode, checkOperands, if_neg (ne_true_of_eq_false h)]

/-- Settles O3: the words are `legal_iff_decode_ok`, the well-formedness is step (3) of `decode`. -/
theorem legalWordsAreTheRowsOfTheMap : Obligations.LegalWordsAreTheRowsOfTheMap := by
  unfold Obligations.LegalWordsAreTheRowsOfTheMap
  exact fun w => ⟨legal_iff_decode_ok, fun i decoded => (decode_eq_ok.1 decoded).2⟩

/-- A word is read as the well-formed command whose word it is. -/
theorem decode_eq_of_encode_eq {i : Instr} {w : CommandWord} (word : encode i = w) (h : i.wellFormed = true) :
    decode w = .ok i :=
  word ▸ decode_encode_of_wellFormed h

/-- Settles O4: each of the ten words is the word of the command that the spec names for it. -/
theorem specWordsDecode : Obligations.SpecWordsDecode := by
  unfold Obligations.SpecWordsDecode
  exact ⟨decode_eq_of_encode_eq rfl rfl, decode_eq_of_encode_eq rfl rfl, decode_eq_of_encode_eq rfl rfl,
    decode_eq_of_encode_eq rfl rfl, decode_eq_of_encode_eq rfl rfl, decode_eq_of_encode_eq rfl rfl,
    decode_eq_of_encode_eq rfl rfl, decode_eq_of_encode_eq rfl rfl, decode_eq_of_encode_eq rfl rfl,
    decode_eq_of_encode_eq rfl rfl⟩

end Sys2Proof
end

section
/-!
PROOFS. What a command does, in one equation (`exec_eq`): the fault order of R214 gives the status of its one response and what ERR
then holds, `data` is the response's data, and only KEXP writes the round keys (spec/10_state.md R22, R25, spec/30_encoding.md R62,
spec/60_exceptions.md R210 to R215).
-/

namespace Sys2Proof.Machine

open Sys2Proof.Spec

/-- R25, R62, R215: `s` after a command whose response is `r` and which leaves the round keys `K`. -/
def ended (s : State) (K : Option RoundKeys) (r : Response) : State :=
  { s with keys := K, err := if s.err = .ok then r.status else s.err, responses := s.responses ++ [r] }

@[simp] theorem ended_keys (s : State) (K : Option RoundKeys) (r : Response) : (ended s K r).keys = K := rfl
@[simp] theorem ended_err (s : State) (K : Option RoundKeys) (r : Response) :
    (ended s K r).err = if s.err = .ok then r.status else s.err := rfl
@[simp] theorem ended_par (s : State) (K : Option RoundKeys) (r : Response) : (ended s K r).par = s.par := rfl
@[simp] theorem ended_inputs (s : State) (K : Option RoundKeys) (r : Response) : (ended s K r).inputs = s.inputs := rfl
@[simp] theorem ended_responses (s : State) (K : Option RoundKeys) (r : Response) :
    (ended s K r).responses = s.responses ++ [r] := rfl

theorem answer_eq_ended (s : State) (K : Option RoundKeys) (d : Half) :
    answer { s with keys := K } d = ended s K { status := .ok, data := d } := by
  unfold answer ended
  split
  case isTrue noFault => rw [← noFault]
  case isFalse => rfl

theorem faulted_eq_ended (s : State) (c : FaultCode) :
    faulted s c = ended s s.keys { status := .fault c, data := 0 } := rfl

/-! The data of a response. -/

/-- R215: a command at fault has data 0. -/
theorem data_eq_zero_of_faulted {i : Instr} {s : State} {c : FaultCode} (h : exec i s = .next (faulted s c)) :
    data i s = 0 := by
  simp [data, h, faulted]

theorem keysAfter_of_ne_kexp {i : Instr} (s : State) (h : ∀ key, i ≠ .kexp key) : keysAfter i s = s.keys := by
  cases i with
  | kexp key => exact absurd rfl (h key)
  | _ => rfl

/-- R135: KEXP is never at fault. -/
theorem ne_kexp_of_fault {i : Instr} {s : State} {c : FaultCode} (h : verdict i s = .fault c) (key : Half) :
    i ≠ .kexp key := by
  rintro rfl
  cases h

/-- R215: a command that the fault order finds at fault raises that fault. -/
theorem exec_of_verdict_fault {i : Instr} {s : State} {c : FaultCode} (h : verdict i s = .fault c) :
    exec i s = .next (faulted s c) := by
  have ends := exec_endsWith_verdict i s
  rwa [h] at ends

/-- R214: any other command answers, and writes at most the round keys. -/
theorem exec_of_verdict_ok {i : Instr} {s : State} (h : verdict i s = .ok) :
    ∃ d, exec i s = .next (answer { s with keys := keysAfter i s } d) := by
  have ends := exec_endsWith_verdict i s
  rwa [h] at ends

/-- R62, R214, R215: what every command does, a faulting and an ill-formed one too. -/
theorem exec_eq (i : Instr) (s : State) :
    exec i s = .next (ended s (keysAfter i s) { status := verdict i s, data := data i s }) := by
  cases status : verdict i s with
  | ok =>
    obtain ⟨d, next⟩ := exec_of_verdict_ok status
    have returned : data i s = d := by simp [data, next, answer]
    rw [next, returned, answer_eq_ended]
  | fault c =>
    have next := exec_of_verdict_fault status
    rw [next, data_eq_zero_of_faulted next, keysAfter_of_ne_kexp s (ne_kexp_of_fault status), faulted_eq_ended]

/-- Settles O13: `exec_of_verdict_fault` and `exec_of_verdict_ok`, where only KEXP has other round keys than `s`. -/
theorem faultOrderDecidesTheOutcome : Obligations.FaultOrderDecidesTheOutcome := by
  unfold Obligations.FaultOrderDecidesTheOutcome
  intro i s
  constructor
  case left => exact fun c fault => exec_of_verdict_fault fault
  case right =>
    intro ok notKexp
    have answered := exec_of_verdict_ok ok
    rwa [keysAfter_of_ne_kexp s notKexp] at answered

/-! The faults that a command's operands and the missing round keys give. -/

theorem keyStatus_of_none {s : State} (h : s.keys = none) : keyStatus s = .fault .noKey := if_pos h

/-- Settles O15: the verdict on RDRK, ENC and DEC S2 is the status of reading RK. -/
theorem keyReadersRaiseNoKeyBeforeKexp : Obligations.KeyReadersRaiseNoKeyBeforeKexp := by
  unfold Obligations.KeyReadersRaiseNoKeyBeforeKexp
  intro i s wellFormed noKeys form
  apply exec_of_verdict_fault
  rw [← keyStatus_of_none noKeys]
  obtain ⟨index, rfl⟩ | ⟨v, r, p, rfl⟩ | ⟨c, rfl⟩ := form
  · exact verdict_rdrk s wellFormed
  · exact verdict_enc s wellFormed
  · exact verdict_dec s wellFormed

/-- Settles O27: an index of 5 to 7 is ill-formed. -/
theorem rdrkBeyondFourIsIllegal : Obligations.RdrkBeyondFourIsIllegal := by
  unfold Obligations.RdrkBeyondFourIsIllegal
  intro s index beyond
  have illFormed : legalKeyIndex index = false := decide_eq_false (by omega)
  exact exec_of_illFormed s illFormed

/-! RDSTAT and the response word. -/

theorem code_toNat (e : Status) : e.code.toNat = number e := by
  cases e with
  | ok => rfl
  | fault c => cases c <;> rfl

theorem exec_rdstat (s : State) : exec .rdstat s = .next (answer s (statusData s)) :=
  respond_eq _ s

/-- R200: RKV weighs 16, and below it stands the number of ERR. -/
theorem statusData_eq (s : State) :
    statusData s = BitVec.ofNat 16 ((if s.keys = none then 0 else 16) + number s.err) := by
  unfold statusData State.rkv
  rw [← code_toNat]
  generalize s.err.code = e
  cases s.keys with
  | none => revert e; decide
  | some ks => revert e; simp only [reduceCtorEq, if_false, Option.isSome_some]; decide

/-- Settles O18: `statusData_eq`. -/
theorem rdstatReportsTheFlags : Obligations.RdstatReportsTheFlags := by
  unfold Obligations.RdstatReportsTheFlags
  intro s
  rw [exec_rdstat, statusData_eq]

/-- Settles O19: the status lies above the 16 bits of the data. -/
theorem responseWordLayout : Obligations.ResponseWordLayout := by
  unfold Obligations.ResponseWordLayout
  intro r
  rw [Response.word, BitVec.toNat_cast, BitVec.toNat_append, code_toNat,
    ← Nat.shiftLeft_add_eq_or_of_lt r.data.isLt, Nat.shiftLeft_eq]

end Sys2Proof.Machine
end

section
/-!
PROOFS. What each command's data depends on (spec/10_state.md R27, spec/70_reset_and_hazards.md R243): the tables for the fifteen
commands that touch no state, RK and the tables for RDRK, ENC and DEC, the flags for RDSTAT. With `exec_eq` this is all that a
command depends on.
-/

namespace Sys2Proof.Machine

open Sys2Proof.Spec

/-- R243: a command that touches no state answers what it answers after a reset, under the same tables. -/
theorem exec_unit {i : Instr} (s : State) (noKeys : readsKeys i = false) (notRdstat : i ≠ .rdstat)
    (notKexp : ∀ key, i ≠ .kexp key) : exec i s = .next (answer s (data i { State.reset with par := s.par })) := by
  cases i with
  | kexp key => exact absurd rfl (notKexp key)
  | rdrk index => cases noKeys
  | enc v r p => cases noKeys
  | dec v r c => cases noKeys
  | rdstat => exact absurd rfl notRdstat
  | _ => rfl

/-! The three commands that read RK. -/

/-- R213: `i` raises NO_KEY while RK holds no value, and otherwise answers a value of the tables and the round keys. -/
def Reads (i : Instr) (value : Params → RoundKeys → Half) : Prop :=
  ∀ s, exec i s = withKeys s fun ks => respond (value s.par ks) s

theorem reads_rdrk {index : BitVec 3} {k : Fin 5} (found : keyIndexOf index = some k) :
    Reads (.rdrk index) fun _ ks => ks.read k := by
  intro s
  simp only [exec, execRdrk, found]

theorem reads_enc {v : BitVec 2} {r : BitVec 3} {cc : CipherConfig} (p : Half) (config : configOf v r = some cc) :
    Reads (.enc v r p) fun P ks => encrypt P p ks cc := by
  intro s
  simp only [exec, execEnc, config]

theorem reads_dec (c : Half) : Reads (.dec 0 2 c) fun P ks => decrypt P c ks := fun _ => rfl

theorem Reads.exec_loaded {i : Instr} {value : Params → RoundKeys → Half} {s : State} {ks : RoundKeys}
    (reads : Reads i value) (loaded : s.keys = some ks) : exec i s = .next (answer s (value s.par ks)) := by
  rw [reads s, withKeys_some s ks _ loaded, respond_eq]

/-- R215: with no round keys the data is 0. -/
theorem Reads.data_eq {i : Instr} {value : Params → RoundKeys → Half} (reads : Reads i value) (s : State) :
    data i s = s.keys.elim 0 (value s.par) := by
  cases keys : s.keys with
  | none => exact data_eq_zero_of_faulted ((reads s).trans (withKeys_none s _ keys))
  | some ks => exact data_eq_of_exec (reads.exec_loaded keys)

/-- R214: an illegal or unsupported form faults in every state; any other reads RK. -/
theorem faults_or_reads {i : Instr} (h : readsKeys i = true) :
    (∃ c, ∀ s, exec i s = .next (faulted s c)) ∨ ∃ value, Reads i value := by
  cases wellFormed : i.wellFormed with
  | false => exact .inl ⟨.illegalCommand, fun s => exec_of_illFormed s wellFormed⟩
  | true =>
    cases i with
    | rdrk index =>
      obtain ⟨k, found⟩ := exists_keyIndexOf wellFormed
      exact .inr ⟨_, reads_rdrk found⟩
    | enc v r p =>
      obtain ⟨cc, config⟩ := exists_configOf wellFormed
      exact .inr ⟨_, reads_enc p config⟩
    | dec v r c =>
      by_cases standard : v = 0 ∧ r = 2
      · obtain ⟨rfl, rfl⟩ := standard
        exact .inr ⟨_, reads_dec c⟩
      · refine .inl ⟨.unsupportedConfig, fun s => exec_of_verdict_fault ?_⟩
        rw [verdict_dec s wellFormed, if_pos standard]
    | _ => cases h

theorem data_congr_of_readsKeys {i : Instr} {s s' : State} (h : readsKeys i = true) (keys : s.keys = s'.keys)
    (par : s.par = s'.par) : data i s = data i s' := by
  obtain ⟨c, faults⟩ | ⟨value, reads⟩ := faults_or_reads h
  · rw [data_eq_zero_of_faulted (faults s), data_eq_zero_of_faulted (faults s')]
  · rw [reads.data_eq, reads.data_eq, keys, par]

/-! What every command's response and round keys depend on. -/

/-- R135: the response of KEXP carries no key material. -/
theorem data_kexp (key : Half) (s : State) : data (.kexp key) s = 0 := by
  simp [data, exec_kexp, answer]

/-- R200: the data of RDSTAT are the two flags. -/
theorem data_rdstat (s : State) :
    data .rdstat s = BitVec.ofNat 16 ((if s.keys = none then 0 else 16) + number s.err) :=
  data_eq_of_exec (rdstatReportsTheFlags s)

/-- R27: the data depends on RK, RKV, the tables, and for RDSTAT on ERR. -/
theorem data_congr {i : Instr} {s s' : State} (keys : s.keys = s'.keys) (par : s.par = s'.par)
    (err : i = .rdstat → s.err = s'.err) : data i s = data i s' := by
  cases reads : readsKeys i with
  | true => exact data_congr_of_readsKeys reads keys par
  | false =>
    cases i with
    | kexp key => rw [data_kexp, data_kexp]
    | rdstat => rw [data_rdstat, data_rdstat, keys, err rfl]
    | _ => rw [data_eq_of_exec (exec_unit s reads nofun nofun), data_eq_of_exec (exec_unit s' reads nofun nofun), par]

theorem verdict_congr (i : Instr) {s s' : State} (keys : s.keys = s'.keys) : verdict i s = verdict i s' := by
  simp only [verdict, keys]

theorem keysAfter_congr (i : Instr) {s s' : State} (keys : s.keys = s'.keys) (par : s.par = s'.par) :
    keysAfter i s = keysAfter i s' := by
  cases i with
  | kexp key => simp only [keysAfter, par]
  | _ => exact keys

/-- Settles O44: by `exec_eq` the response is the verdict and the data, and these, the round keys and ERR after the command are
functions of what the two states have in common. -/
theorem nothingHiddenInfluencesACommand : Obligations.NothingHiddenInfluencesACommand := by
  unfold Obligations.NothingHiddenInfluencesACommand
  intro i s s' keys err par
  have verdicts : verdict i s = verdict i s' := verdict_congr i keys
  have datas : data i s = data i s' := data_congr keys par fun _ => err
  refine ⟨_, _, { status := verdict i s, data := data i s }, exec_eq i s, exec_eq i s', rfl, ?response, ?keys, ?err⟩
  case response => rw [ended_responses, verdicts, datas]
  case keys => exact keysAfter_congr i keys par
  case err => rw [ended_err, ended_err, err, verdicts]

/-- Settles O17: of the four parts of `exec_eq` only ERR itself and the data of RDSTAT depend on ERR. -/
theorem errInfluencesNoOtherCommand : Obligations.ErrInfluencesNoOtherCommand := by
  unfold Obligations.ErrInfluencesNoOtherCommand
  intro i s e notRdstat
  have verdicts : verdict i { s with err := e } = verdict i s := verdict_congr i rfl
  have datas : data i { s with err := e } = data i s := data_congr rfl rfl fun rdstat => absurd rdstat notRdstat
  refine ⟨_, _, { status := verdict i s, data := data i s }, exec_eq i s, exec_eq i _, rfl, ?response, ?keys⟩
  case response => rw [ended_responses, verdicts, datas]
  case keys => exact keysAfter_congr i rfl rfl

/-- Settles O43: `exec_unit` and `exec_kexp`, whose answers are a function of the tables. -/
theorem unitCommandsIgnoreTheState : Obligations.UnitCommandsIgnoreTheState := by
  unfold Obligations.UnitCommandsIgnoreTheState
  intro s keys e
  constructor
  case left =>
    intro i noKeys notRdstat notKexp
    exact ⟨_, exec_unit s noKeys notRdstat notKexp, exec_unit { s with keys := keys, err := e } noKeys notRdstat notKexp⟩
  case right => exact fun key => ⟨_, exec_kexp key s, exec_kexp key { s with keys := keys, err := e }⟩

/-- Settles O26: `reads_rdrk` at the five indices. -/
theorem rdrkReturnsTheNamedKey : Obligations.RdrkReturnsTheNamedKey := by
  unfold Obligations.RdrkReturnsTheNamedKey
  intro s ks loaded
  exact ⟨(reads_rdrk (k := 0) rfl).exec_loaded loaded, (reads_rdrk (k := 1) rfl).exec_loaded loaded,
    (reads_rdrk (k := 2) rfl).exec_loaded loaded, (reads_rdrk (k := 3) rfl).exec_loaded loaded,
    (reads_rdrk (k := 4) rfl).exec_loaded loaded⟩

/-- Settles O25: the round keys are the expansion of the key, which is itself the first of them (`expand_k0`). -/
theorem kexpIsAFunctionOfTheKeyAndInjective : Obligations.KexpIsAFunctionOfTheKeyAndInjective := by
  unfold Obligations.KexpIsAFunctionOfTheKeyAndInjective
  intro s s' t t' key key' par next next'
  have keys : t.keys = some (expand s.par key) := by rw [exec_kexp] at next; cases next; rfl
  have keys' : t'.keys = some (expand s'.par key') := by rw [exec_kexp] at next'; cases next'; rfl
  rw [keys, keys', par, Option.some.injEq]
  constructor
  case mp =>
    intro same
    simpa only [expand_k0] using congrArg RoundKeys.k0 same
  case mpr => rintro rfl; rfl

end Sys2Proof.Machine
end

section
/-!
PROOFS. One step of the core, and runs of steps (spec/10_state.md R22 to R31, spec/60_exceptions.md R218, R224,
spec/70_reset_and_hazards.md R240 to R250). What a step can do is said once (`Steps`, `exists_steps`): it waits, it is a reset, or
it gives one response to one command word. Each invariant is then a case split on it.
-/

namespace Sys2Proof.Machine

open Sys2Proof.Spec

/-! What the core does at its port. -/

/-- R240, R241: a reset, between commands or during one, takes the round keys and clears ERR. -/
theorem step_reset {s : State} {rest : List HostEvent} (h : s.inputs = .reset :: rest) :
    step s = .next { s with keys := none, err := .ok, inputs := rest } :=
  takeEvent_cons s .reset rest h

theorem step_resetDuring {s : State} {w : CommandWord} {rest : List HostEvent} (h : s.inputs = .resetDuring w :: rest) :
    step s = .next { s with keys := none, err := .ok, inputs := rest } :=
  takeEvent_cons s (.resetDuring w) rest h

/-- Settles O10: `step_reset` and `step_resetDuring`. -/
theorem resetEventClearsTheFlags : Obligations.ResetEventClearsTheFlags := by
  unfold Obligations.ResetEventClearsTheFlags
  exact fun s w rest => ⟨step_reset, step_resetDuring⟩

/-- Settles O11: the core has no event to take. -/
theorem idleCoreKeepsItsState : Obligations.IdleCoreKeepsItsState := by
  unfold Obligations.IdleCoreKeepsItsState
  exact takeEvent_nil

/-- Settles O5: the step runs the word, and the word its command. -/
theorem stepRunsTheDecodedCommand : Obligations.StepRunsTheDecodedCommand := by
  unfold Obligations.StepRunsTheDecodedCommand
  intro s w rest i presented decoded
  rw [step_eq_runWord presented, runWord_ok _ decoded]

/-- R69, R70: the word of a command does what the command does; with illegal operands both raise ILLEGAL_COMMAND. -/
theorem runWord_encode (i : Instr) (s : State) : runWord (encode i) s = exec i s := by
  cases wellFormed : i.wellFormed with
  | true => exact runWord_ok s (decode_encode_of_wellFormed wellFormed)
  | false => rw [runWord_error s (decode_encode_of_illFormed wellFormed), exec_of_illFormed s wellFormed]

/-- Settles O6: the step takes off the word that was presented, which leaves `s`, and runs it. -/
theorem stepOfAnEncodedCommandIsExec : Obligations.StepOfAnEncodedCommandIsExec := by
  unfold Obligations.StepOfAnEncodedCommandIsExec
  intro s i
  rw [step_eq_runWord (State.present_inputs s (encode i))]
  exact runWord_encode i s

/-! What a command word can do to the round keys. -/

/-- R22, R29: `K` are the round keys that the word `w` may leave in `s`: those there are, or a KEXP's expansion. -/
def KeysAfterWord (w : CommandWord) (s : State) (K : Option RoundKeys) : Prop :=
  K = s.keys ∨ ∃ key, w = encode (.kexp key) ∧ K = some (expand s.par key)

theorem keysAfterWord_of_decode {w : CommandWord} {i : Instr} (s : State) (h : decode w = .ok i) :
    KeysAfterWord w s (keysAfter i s) := by
  cases i with
  | kexp key => exact .inr ⟨key, (encode_of_decode h).symm, rfl⟩
  | _ => exact .inl rfl

/-- R62, R211: every word gives one response. -/
theorem exists_runWord_eq (w : CommandWord) (s : State) :
    ∃ K r, runWord w s = .next (ended s K r) ∧ KeysAfterWord w s K := by
  cases decoded : decode w with
  | ok i => exact ⟨_, _, (runWord_ok s decoded).trans (exec_eq i s), keysAfterWord_of_decode s decoded⟩
  | error reject => exact ⟨s.keys, { status := .fault .illegalCommand, data := 0 }, runWord_error s decoded, .inl rfl⟩

/-! What a step can do. -/

/-- R48: the three things that one step can do, with the state each leaves. -/
inductive Steps (s : State) : State → Prop where
  /-- R224: no event, and nothing changes. -/
  | idle (inputs : s.inputs = []) : Steps s s
  /-- R240, R241: a reset. -/
  | reset (rest : List HostEvent) (inputs : s.inputs = .reset :: rest ∨ ∃ w, s.inputs = .resetDuring w :: rest) :
      Steps s { s with keys := none, err := .ok, inputs := rest }
  /-- R62: a command word, answered by `r`. -/
  | command (w : CommandWord) (rest : List HostEvent) (K : Option RoundKeys) (r : Response)
      (inputs : s.inputs = .command w :: rest) (keys : KeysAfterWord w s K) :
      Steps s (ended { s with inputs := rest } K r)

/-- R250: from every state there is a step, and it does one of the three. -/
theorem exists_steps (s : State) : ∃ t, step s = .next t ∧ Steps s t := by
  cases inputs : s.inputs with
  | nil => exact ⟨s, takeEvent_nil s inputs, .idle inputs⟩
  | cons e rest =>
    cases e with
    | reset => exact ⟨_, step_reset inputs, .reset rest (.inl inputs)⟩
    | resetDuring w => exact ⟨_, step_resetDuring inputs, .reset rest (.inr ⟨w, inputs⟩)⟩
    | command w =>
      obtain ⟨K, r, next, keys⟩ := exists_runWord_eq w { s with inputs := rest }
      exact ⟨_, (step_eq_runWord inputs).trans next, .command w rest K r inputs keys⟩

theorem steps_of_step {s t : State} (h : step s = .next t) : Steps s t := by
  obtain ⟨u, next, steps⟩ := exists_steps s
  rw [h] at next
  cases next
  exact steps

/-- Settles O9: by cases on what the step does. -/
theorem stepAlwaysAnswers : Obligations.StepAlwaysAnswers := by
  unfold Obligations.StepAlwaysAnswers
  intro s
  obtain ⟨t, next, steps⟩ := exists_steps s
  refine ⟨t, next, ?_⟩
  cases steps with
  | idle inputs => simp [inputs]
  | reset rest inputs => obtain inputs | ⟨w, inputs⟩ := inputs <;> simp [inputs]
  | command w rest K r inputs keys => simp [inputs]

/-! ERR. -/

/-- Settles O16: a command leaves an ERR that is set, and a reset is the other case. -/
theorem firstFaultStaysUntilReset : Obligations.FirstFaultStaysUntilReset := by
  unfold Obligations.FirstFaultStaysUntilReset
  intro s t next faulted
  cases steps_of_step next with
  | idle inputs => exact .inl rfl
  | reset rest inputs => exact .inr ⟨rfl, rest, inputs⟩
  | command w rest K r inputs keys => exact .inl (if_neg faulted)

/-- R218: with the response of a command, ERR stays the first fault among the responses. -/
theorem ended_err_eq_firstFault {s : State} (K : Option RoundKeys) (r : Response)
    (h : s.err = firstFault s.responses) : (ended s K r).err = firstFault (ended s K r).responses := by
  rw [ended_err, ended_responses, firstFault_append, h]

/-- Settles O54: `ended_err_eq_firstFault`; an idle step changes nothing and a reset is excluded. -/
theorem errStaysTheFirstFault : Obligations.ErrStaysTheFirstFault := by
  unfold Obligations.ErrStaysTheFirstFault
  intro s t notReset first next
  cases steps_of_step next with
  | idle inputs => exact first
  | reset rest inputs => exact absurd ⟨rest, inputs⟩ notReset
  | command w rest K r inputs keys => exact ended_err_eq_firstFault K r first

/-- Settles O55: there are no responses, and ERR is OK. -/
theorem errIsTheFirstFaultAtReset : Obligations.ErrIsTheFirstFaultAtReset := by
  unfold Obligations.ErrIsTheFirstFaultAtReset
  rfl

/-- Settles O12: the fields of `State.reset`. -/
theorem resetValues : Obligations.ResetValues := by
  unfold Obligations.ResetValues
  exact ⟨rfl, rfl, rfl, rfl⟩

/-! The round-key file. -/

/-- Settles O21: `KeysAfterWord` for a command; the other steps keep the keys or are a reset. -/
theorem roundKeysChangeOnlyByKexpOrReset : Obligations.RoundKeysChangeOnlyByKexpOrReset := by
  unfold Obligations.RoundKeysChangeOnlyByKexpOrReset
  intro s t next
  cases steps_of_step next with
  | idle inputs => exact .inl rfl
  | reset rest inputs => exact .inr (.inl ⟨rfl, rest, inputs⟩)
  | command w rest K r inputs keys =>
    obtain kept | ⟨key, rfl, loaded⟩ := keys
    · exact .inl kept
    · exact .inr (.inr ⟨key, rest, inputs, loaded⟩)

/-- R28: the tables are as they were, whatever the step did. -/
theorem par_of_step {s t : State} (h : step s = .next t) : t.par = s.par := by
  cases steps_of_step h with
  | idle inputs => rfl
  | reset rest inputs => rfl
  | command w rest K r inputs keys => rfl

/-- R31: keys that are `none` or the expansion of a key are expanded. -/
theorem keysAreExpanded_of_none {s : State} (h : s.keys = none) : KeysAreExpanded s := by
  intro ks loaded
  rw [h] at loaded
  cases loaded

theorem keysAreExpanded_of_loaded {s : State} {key : Half} (h : KeysLoaded key s) : KeysAreExpanded s := by
  intro ks loaded
  exact ⟨key, Option.some.inj (loaded.symm.trans h)⟩

/-- Settles O22: by O21 a step keeps the round keys, drops them, or loads an expansion, under the same tables (`par_of_step`). -/
theorem keysStayExpanded : Obligations.KeysStayExpanded := by
  unfold Obligations.KeysStayExpanded
  intro s t expanded next
  have par : t.par = s.par := par_of_step next
  obtain kept | ⟨dropped, -⟩ | ⟨key, rest, -, loaded⟩ := roundKeysChangeOnlyByKexpOrReset s t next
  · rw [KeysAreExpanded, kept, par]
    exact expanded
  · exact keysAreExpanded_of_none dropped
  · exact keysAreExpanded_of_loaded (loaded.trans (by rw [par]))

/-- Settles O23: at reset there are no round keys. -/
theorem keysAreExpandedAtReset : Obligations.KeysAreExpandedAtReset := by
  unfold Obligations.KeysAreExpandedAtReset
  exact keysAreExpanded_of_none rfl

/-! Runs. -/

/-- R244: the first fault of a run is OK exactly when every status is. -/
theorem firstFault_eq_ok_iff (rs : List Response) : firstFault rs = .ok ↔ AllAnswered rs := by
  induction rs with
  | nil => simp [firstFault, AllAnswered]
  | cons r rs ih => by_cases h : r.status = .ok <;> simp_all [firstFault, AllAnswered]

theorem run_succ {s t : State} (n : Nat) (h : step s = .next t) :
    Host.Core.run Sys2Proof.core (n + 1) s = Host.Core.run Sys2Proof.core n t := by
  have next : Sys2Proof.core.step s = .next t := h
  simp only [Host.Core.run, next]

/-- R218, R244: a run of command words, from any state whose ERR is the first fault among its responses. -/
theorem exists_run (ws : List CommandWord) (s : State) (inputs : s.inputs = ws.map HostEvent.command)
    (first : s.err = firstFault s.responses) :
    ∃ t : State, Host.Core.run Sys2Proof.core ws.length s = .next t ∧ t.inputs = [] ∧
      t.responses.length = s.responses.length + ws.length ∧ t.err = firstFault t.responses := by
  induction ws generalizing s with
  | nil => exact ⟨s, rfl, inputs, rfl, first⟩
  | cons w ws ih =>
    obtain ⟨K, r, next, -⟩ := exists_runWord_eq w { s with inputs := ws.map HostEvent.command }
    have stepped := (step_eq_runWord inputs).trans next
    obtain ⟨t, run, taken, length, last⟩ :=
      ih (ended { s with inputs := ws.map HostEvent.command } K r) rfl (ended_err_eq_firstFault K r first)
    refine ⟨t, (run_succ ws.length stepped).trans run, taken, ?_, last⟩
    simp only [length, ended_responses, List.length_append, List.length_cons, List.length_nil]
    omega

/-- Settles O20: `exists_run` with no response given yet. -/
theorem runRecordsItsFirstFault : Obligations.RunRecordsItsFirstFault := by
  unfold Obligations.RunRecordsItsFirstFault
  intro s ws inputs noResponses noFault
  have first : s.err = firstFault s.responses := by rw [noResponses, noFault, firstFault]
  obtain ⟨t, run, taken, length, last⟩ := exists_run ws s inputs first
  refine ⟨t, run, taken, ?_, last, ?_⟩
  · rw [length, noResponses, List.length_nil, Nat.zero_add]
  · rw [last, firstFault_eq_ok_iff]

end Sys2Proof.Machine
end

section
/-!
PROOFS. The GF(2^4) multiplier and the column mixes (spec/40_field_arithmetic.md R101 to R104, spec/44_round_function.md R153 to
R155). Only facts about two operands are enumerated. Multiplication distributes because each bit of the second operand contributes
a multiple of its own, and it is associative because it is so for the factor 2, whose powers are all the other elements but 0;
inverses and the absence of zero divisors follow.
-/

namespace Sys2Proof.Machine

open Sys2Proof.Spec

/-- R102: the loop of R101 gives the table, entry by entry. -/
theorem gfMul_eq_gfTable : ∀ a b : Nibble, gfMul a b = gfTable a b := by decide

theorem exec_gfmul (a b : Nibble) (s : State) : exec (.gfmul a b) s = .next (answer s ((gfMul a b).setWidth 16)) :=
  respond_eq _ s

/-- Settles O28: `gfMul_eq_gfTable`. -/
theorem gfmulReturnsTheTableEntry : Obligations.GfmulReturnsTheTableEntry := by
  unfold Obligations.GfmulReturnsTheTableEntry
  intro a b s
  rw [exec_gfmul, gfMul_eq_gfTable]

/-! The laws of R104. -/

@[simp] theorem gfMul_zero : ∀ a : Nibble, gfMul a 0 = 0 := by decide

@[simp] theorem gfMul_one : ∀ a : Nibble, gfMul a 1 = a := by decide

theorem gfMul_comm : ∀ a b : Nibble, gfMul a b = gfMul b a := by decide

@[simp] theorem zero_gfMul (a : Nibble) : gfMul 0 a = 0 := by rw [gfMul_comm, gfMul_zero]

@[simp] theorem one_gfMul (a : Nibble) : gfMul 1 a = a := by rw [gfMul_comm, gfMul_one]

/-- What bit `i` of `b` contributes to the product of `a` and `b`. -/
def bitProduct (a b : Nibble) (i : Nat) : Nibble := if b.getLsbD i then gfMul a (1 <<< i) else 0

theorem gfMul_eq_bitProducts :
    ∀ a b : Nibble, gfMul a b = bitProduct a b 0 ^^^ bitProduct a b 1 ^^^ bitProduct a b 2 ^^^ bitProduct a b 3 := by
  decide

theorem bitProduct_xor (a b c : Nibble) (i : Nat) :
    bitProduct a (b ^^^ c) i = bitProduct a b i ^^^ bitProduct a c i := by
  unfold bitProduct
  rw [BitVec.getLsbD_xor]
  cases b.getLsbD i <;> cases c.getLsbD i <;> simp

theorem gfMul_xor (a b c : Nibble) : gfMul a (b ^^^ c) = gfMul a b ^^^ gfMul a c := by
  simp only [gfMul_eq_bitProducts, bitProduct_xor]
  ac_rfl

/-- The powers of 2, which is x in the field. -/
def powerOfTwo : Nat → Nibble
  | 0 => 1
  | n + 1 => gfMul (powerOfTwo n) 2

/-- 2 generates the field's multiplicative group. -/
theorem eq_zero_or_powerOfTwo : ∀ c : Nibble, c = 0 ∨ ∃ n < 15, c = powerOfTwo n := by decide

theorem gfMul_assoc_two : ∀ a b : Nibble, gfMul (gfMul a b) 2 = gfMul a (gfMul b 2) := by decide

theorem gfMul_assoc_powerOfTwo (a b : Nibble) (n : Nat) :
    gfMul (gfMul a b) (powerOfTwo n) = gfMul a (gfMul b (powerOfTwo n)) := by
  induction n with
  | zero => rw [powerOfTwo, gfMul_one, gfMul_one]
  | succ n ih => rw [powerOfTwo, ← gfMul_assoc_two, ih, gfMul_assoc_two, gfMul_assoc_two]

theorem gfMul_assoc (a b c : Nibble) : gfMul (gfMul a b) c = gfMul a (gfMul b c) := by
  obtain rfl | ⟨n, -, rfl⟩ := eq_zero_or_powerOfTwo c
  · simp only [gfMul_zero]
  · exact gfMul_assoc_powerOfTwo a b n

theorem exists_gfMul_eq_one : ∀ a : Nibble, a ≠ 0 → ∃ b, gfMul a b = 1 := by decide

/-- R104: a product with a factor that has an inverse gives the other factor back. -/
theorem gfMul_cancel {a b : Nibble} (inverse : gfMul a b = 1) (c : Nibble) : gfMul b (gfMul a c) = c := by
  rw [← gfMul_assoc, gfMul_comm b a, inverse, one_gfMul]

theorem eq_of_gfMul_eq_one {a b c : Nibble} (hb : gfMul a b = 1) (hc : gfMul a c = 1) : c = b := by
  rw [← gfMul_cancel hb c, hc, gfMul_one]

theorem eq_zero_of_gfMul_eq_zero {a b : Nibble} (h : gfMul a b = 0) : a = 0 ∨ b = 0 := by
  by_cases nonzero : a = 0
  · exact .inl nonzero
  · obtain ⟨inverse, one⟩ := exists_gfMul_eq_one a nonzero
    exact .inr (by rw [← gfMul_cancel one b, h, gfMul_zero])

/-- Settles O29: the laws above, in the order of R104. -/
theorem gfmulFieldLaws : Obligations.GfmulFieldLaws := by
  unfold Obligations.GfmulFieldLaws
  refine ⟨fun a => ⟨gfMul_zero a, gfMul_one a, zero_gfMul a, one_gfMul a⟩, gfMul_comm, gfMul_xor, gfMul_assoc, ?inverse,
    fun a b => eq_zero_of_gfMul_eq_zero, by decide, by decide⟩
  case inverse =>
    intro a nonzero
    obtain ⟨b, one⟩ := exists_gfMul_eq_one a nonzero
    exact ⟨b, one, fun c => eq_of_gfMul_eq_one one⟩

/-! The column mixes. -/

theorem exec_icolmix (w : Half) (s : State) : exec (.icolmix w) s = .next (answer s (sw (invColumnMix (unsw w)))) :=
  respond_eq _ s

@[simp] theorem data_icolmix (w : Half) (s : State) : data (.icolmix w) s = sw (invColumnMix (unsw w)) :=
  data_eq_of_exec (exec_icolmix w s)

/-- Settles O37: the nibbles of the state word, and row 4 of the table. -/
theorem colmixMixesByFour : Obligations.ColmixMixesByFour := by
  unfold Obligations.ColmixMixesByFour
  intro w s
  rw [exec_colmix, sw_eq_pack, unsw_eq_nib]
  simp only [columnMix, gfMul_eq_gfTable]

/-- Settles O38: the nibbles of the state word, and rows 9 and 2 of the table. -/
theorem icolmixMixesByNineAndTwo : Obligations.IcolmixMixesByNineAndTwo := by
  unfold Obligations.IcolmixMixesByNineAndTwo
  intro w s
  rw [exec_icolmix, sw_eq_pack, unsw_eq_nib]
  simp only [invColumnMix, gfMul_eq_gfTable]

/-- R155: the product of the two matrices is the identity; its entries are 9 + 2·4 = 1 and 9·4 + 2 = 0. -/
theorem unmix_mix : ∀ a c : Nibble, gfMul 9 (a ^^^ gfMul 4 c) ^^^ gfMul 2 (c ^^^ gfMul 4 a) = a := by decide

theorem mix_unmix : ∀ a c : Nibble,
    (gfMul 9 a ^^^ gfMul 2 c) ^^^ gfMul 4 (gfMul 9 c ^^^ gfMul 2 a) = a := by decide

@[simp] theorem invColumnMix_columnMix (st : Nibbles) : invColumnMix (columnMix st) = st := by
  simp only [invColumnMix, columnMix, unmix_mix]

@[simp] theorem columnMix_invColumnMix (st : Nibbles) : columnMix (invColumnMix st) = st := by
  simp only [invColumnMix, columnMix, mix_unmix]

/-- Settles O39: the functions undo each other, and the commands carry their state words. -/
theorem columnMixesAreInverse : Obligations.ColumnMixesAreInverse := by
  unfold Obligations.ColumnMixesAreInverse
  refine ⟨fun st => ⟨invColumnMix_columnMix st, columnMix_invColumnMix st⟩, fun w s => ⟨?_, ?_⟩⟩
  · rw [exec_icolmix, data_colmix, unsw_sw, invColumnMix_columnMix, sw_unsw]
  · rw [exec_colmix, data_icolmix, unsw_sw, columnMix_invColumnMix, sw_unsw]

end Sys2Proof.Machine
end

section
/-!
PROOFS. The codec, the key addition, the substitution of the State, and the inverse round (spec/42_state_codec.md R120 to R124,
spec/43_key_schedule.md R134, spec/44_round_function.md R151, R156, R159). The codec is the state word with positions 1 and 2 of the
State swapped, and the key addition the xor of two States; both are compatible with the xor of state words.
-/

namespace Sys2Proof.Machine

open Sys2Proof.Spec

/-- R134: SUB2NIB. -/
theorem exec_sub2nib (x : Byte) (s : State) : exec (.sub2nib x) s = .next (answer s ((sub2nib s.par x).setWidth 16)) :=
  respond_eq _ s

/-- Settles O34: `swapSub_eq_sub2nib`. -/
theorem sub2nibSubstitutesAndSwaps : Obligations.Sub2nibSubstitutesAndSwaps := by
  unfold Obligations.Sub2nibSubstitutesAndSwaps
  intro x s
  rw [exec_sub2nib, swapSub_eq_sub2nib]

/-- Settles O30: the model's lookup is the spec's. -/
theorem sboxReturnsTheTableEntry : Obligations.SboxReturnsTheTableEntry := by
  unfold Obligations.SboxReturnsTheTableEntry
  intro n s
  rw [exec_sbox, sboxAt_eq_subNibble]

/-! The codec. -/

/-- R120, R121: the State with positions 1 and 2 swapped. -/
def swapMiddle (st : Nibbles) : Nibbles := { s0 := st.s0, s1 := st.s2, s2 := st.s1, s3 := st.s3 }

@[simp] theorem swapMiddle_swapMiddle (st : Nibbles) : swapMiddle (swapMiddle st) = st := rfl

theorem toState_eq (block : Half) : toState block = swapMiddle (unsw block) := rfl

theorem toBlock_eq (st : Nibbles) : toBlock st = sw (swapMiddle st) := rfl

@[simp] theorem toBlock_toState (block : Half) : toBlock (toState block) = block := by
  rw [toBlock_eq, toState_eq, swapMiddle_swapMiddle, sw_unsw]

@[simp] theorem toState_toBlock (st : Nibbles) : toState (toBlock st) = st := by
  rw [toBlock_eq, toState_eq, unsw_sw, swapMiddle_swapMiddle]

/-- R122: on 16-bit buses the two directions are one map. -/
theorem toBlock_unsw (w : Half) : toBlock (unsw w) = sw (toState w) := rfl

theorem sw_toState (w : Half) : sw (toState w) = pack (nib 3 w) (nib 1 w) (nib 2 w) (nib 0 w) := by
  rw [sw_eq_pack, toState_eq, unsw_eq_nib, swapMiddle]

theorem sw_toState_sw_toState (w : Half) : sw (toState (sw (toState w))) = w := by
  rw [← toBlock_unsw, unsw_sw, toBlock_toState]

/-- Settles O32: `sw_toState` for both directions. -/
theorem codecCommandsSwapTheMiddleNibbles : Obligations.CodecCommandsSwapTheMiddleNibbles := by
  unfold Obligations.CodecCommandsSwapTheMiddleNibbles
  intro x s
  exact ⟨by rw [exec_tostate, sw_toState], by rw [exec_toblock, toBlock_unsw, sw_toState]⟩

/-! The xor of two States. -/

/-- R156: position by position. -/
def xorNibbles (st t : Nibbles) : Nibbles :=
  { s0 := st.s0 ^^^ t.s0, s1 := st.s1 ^^^ t.s1, s2 := st.s2 ^^^ t.s2, s3 := st.s3 ^^^ t.s3 }

theorem swapMiddle_xorNibbles (st t : Nibbles) :
    swapMiddle (xorNibbles st t) = xorNibbles (swapMiddle st) (swapMiddle t) := rfl

theorem unsw_xor (x y : Half) : unsw (x ^^^ y) = xorNibbles (unsw x) (unsw y) := by
  simp only [unsw, xorNibbles, BitVec.extractLsb'_xor]

theorem sw_xorNibbles (st t : Nibbles) : sw (xorNibbles st t) = sw st ^^^ sw t := by
  rw [← sw_unsw (sw st ^^^ sw t), unsw_xor, unsw_sw, unsw_sw]

theorem sw_toState_xor (x y : Half) : sw (toState (x ^^^ y)) = sw (toState x) ^^^ sw (toState y) := by
  simp only [toState_eq, unsw_xor, swapMiddle_xorNibbles, sw_xorNibbles]

/-- Settles O33: the codec is `swapMiddle` between state words, which undoes itself and keeps the xor. -/
theorem codecIsAnInvolution : Obligations.CodecIsAnInvolution := by
  unfold Obligations.CodecIsAnInvolution
  exact ⟨toBlock_toState, toState_toBlock, fun x => ⟨sw_toState x, toBlock_unsw x, sw_toState_sw_toState x⟩,
    sw_toState_xor, sw_toState_xor⟩

/-! The key addition. -/

theorem addRoundKey_eq (st : Nibbles) (k : Half) : addRoundKey st k = xorNibbles st (toState k) := rfl

theorem sw_addRoundKey_unsw (w k : Half) : sw (addRoundKey (unsw w) k) = w ^^^ sw (toState k) := by
  rw [addRoundKey_eq, sw_xorNibbles, sw_unsw]

@[simp] theorem addRoundKey_addRoundKey (st : Nibbles) (k : Half) : addRoundKey (addRoundKey st k) k = st := by
  simp only [addRoundKey, BitVec.xor_assoc, BitVec.xor_self, BitVec.xor_zero]

/-- R156: on Blocks the key addition is the plain xor. -/
theorem toBlock_addRoundKey (st : Nibbles) (k : Half) : toBlock (addRoundKey st k) = toBlock st ^^^ k := by
  rw [addRoundKey_eq, toBlock_eq, swapMiddle_xorNibbles, sw_xorNibbles, ← toBlock_eq, ← toBlock_eq, toBlock_toState]

/-- Settles O40: `sw_addRoundKey_unsw`, `addRoundKey_addRoundKey`, `toBlock_addRoundKey`. -/
theorem addkeyXorsTheDecodedSubkey : Obligations.AddkeyXorsTheDecodedSubkey := by
  unfold Obligations.AddkeyXorsTheDecodedSubkey
  intro w k s
  refine ⟨?_, ?_, fun st => toBlock_addRoundKey st k⟩
  · rw [exec_addkey, sw_addRoundKey_unsw, sw_toState]
  · rw [exec_addkey, data_addkey, unsw_sw, addRoundKey_addRoundKey, sw_unsw]

/-! The substitution of the State. -/

@[simp] theorem invSubNibbles_subNibbles (P : Params) (st : Nibbles) : invSubNibbles P (subNibbles P st) = st := by
  simp only [invSubNibbles, subNibbles, invSubNibble_subNibble]

@[simp] theorem subNibbles_invSubNibbles (P : Params) (st : Nibbles) : subNibbles P (invSubNibbles P st) = st := by
  simp only [invSubNibbles, subNibbles, subNibble_invSubNibble]

theorem exec_isubn (w : Half) (s : State) : exec (.isubn w) s = .next (answer s (sw (invSubNibbles s.par (unsw w)))) :=
  respond_eq _ s

@[simp] theorem data_isubn (w : Half) (s : State) : data (.isubn w) s = sw (invSubNibbles s.par (unsw w)) :=
  data_eq_of_exec (exec_isubn w s)

/-- R151: on the state word, nibble by nibble. -/
theorem sw_subNibbles_unsw (P : Params) (w : Half) :
    sw (subNibbles P (unsw w)) =
      pack (sboxAt P (nib 3 w)) (sboxAt P (nib 2 w)) (sboxAt P (nib 1 w)) (sboxAt P (nib 0 w)) := by
  simp only [sw_eq_pack, unsw_eq_nib, subNibbles, sboxAt_eq_subNibble]

/-- Settles O35: the nibbles are `sw_subNibbles_unsw`, and each substitution undoes the other on the State. -/
theorem subnAndIsubnAreInverse : Obligations.SubnAndIsubnAreInverse := by
  unfold Obligations.SubnAndIsubnAreInverse
  intro w s
  refine ⟨?substitutes, ⟨_, exec_isubn w s, ?undone⟩, ?undoes⟩
  case substitutes => rw [exec_subn, sw_subNibbles_unsw]
  case undone => rw [exec_subn, unsw_sw, subNibbles_invSubNibbles, sw_unsw]
  case undoes => rw [exec_isubn, data_subn, unsw_sw, invSubNibbles_subNibbles, sw_unsw]

/-! The inverse round. -/

@[simp] theorem invRound_fullRound (P : Params) (st : Nibbles) (k : Half) : invRound P (fullRound P st k) k = st := by
  rw [invRound, fullRound, addRoundKey_addRoundKey, invColumnMix_columnMix, rowShift_rowShift, invSubNibbles_subNibbles]

@[simp] theorem fullRound_invRound (P : Params) (st : Nibbles) (k : Half) : fullRound P (invRound P st k) k = st := by
  rw [invRound, fullRound, subNibbles_invSubNibbles, rowShift_rowShift, columnMix_invColumnMix, addRoundKey_addRoundKey]

/-- R186: the final round undone. -/
def invFinalRound (P : Params) (st : Nibbles) (k : Half) : Nibbles :=
  invSubNibbles P (rowShift (addRoundKey st k))

@[simp] theorem invFinalRound_finalRound (P : Params) (st : Nibbles) (k : Half) :
    invFinalRound P (finalRound P st k) k = st := by
  rw [invFinalRound, finalRound, addRoundKey_addRoundKey, rowShift_rowShift, invSubNibbles_subNibbles]

@[simp] theorem finalRound_invFinalRound (P : Params) (st : Nibbles) (k : Half) :
    finalRound P (invFinalRound P st k) k = st := by
  rw [invFinalRound, finalRound, subNibbles_invSubNibbles, rowShift_rowShift, addRoundKey_addRoundKey]

theorem exec_iround (w k : Half) (s : State) : exec (.iround w k) s = .next (answer s (sw (invRound s.par (unsw w) k))) :=
  respond_eq _ s

@[simp] theorem data_iround (w k : Half) (s : State) : data (.iround w k) s = sw (invRound s.par (unsw w) k) :=
  data_eq_of_exec (exec_iround w k s)

/-- R159: ADDKEY, ICOLMIX, ROWSH, ISUBN in this order are an inverse round. -/
theorem data_inverse_round_steps (w k : Half) (s : State) :
    data (.isubn (data (.rowsh (data (.icolmix (data (.addkey w k) s)) s)) s)) s = sw (invRound s.par (unsw w) k) := by
  rw [data_isubn, data_rowsh, data_icolmix, data_addkey, unsw_sw, unsw_sw, unsw_sw, invRound]

/-- R159: ADDKEY, ROWSH, ISUBN in this order undo a final round. -/
theorem data_inverse_final_round_steps (w k : Half) (s : State) :
    data (.isubn (data (.rowsh (data (.addkey w k) s)) s)) s = sw (invFinalRound s.par (unsw w) k) := by
  rw [data_isubn, data_rowsh, data_addkey, unsw_sw, unsw_sw, invFinalRound]

/-- Settles O42: `data_inverse_round_steps`; each of the other three parts carries the state words of two rounds that undo each
other. -/
theorem iroundUndoesRound : Obligations.IroundUndoesRound := by
  unfold Obligations.IroundUndoesRound
  intro w k s
  refine ⟨?steps, ?undoes, ?undone, ?final⟩
  case steps => rw [exec_iround, data_inverse_round_steps]
  case undoes => rw [exec_iround, data_round, unsw_sw, invRound_fullRound, sw_unsw]
  case undone => rw [exec_round, data_iround, unsw_sw, fullRound_invRound, sw_unsw]
  case final =>
    rw [exec_isubn, data_rowsh, data_addkey, data_fround, unsw_sw, unsw_sw, unsw_sw, ← invFinalRound,
      invFinalRound_finalRound, sw_unsw]

end Sys2Proof.Machine
end

section
/-!
PROOFS. The cipher (spec/45_cipher_pipeline.md R181 to R190). DEC S2 undoes the steps of ENC S2 in reverse order; every step of
every variant is injective, hence every configuration is a bijection on Blocks; and a lazy round without the row shift substitutes
and adds the key in each nibble of the Block.
-/

namespace Sys2Proof.Machine

open Sys2Proof.Spec

/-- R183: ENC under Lazy is the lazy chain with K1 to K_R. -/
theorem exec_enc_lazy {s : State} {ks : RoundKeys} {v : BitVec 2} {r : BitVec 3} (p : Half) (R : RoundCount)
    (loaded : s.keys = some ks) (config : configOf v r = some { variant := .lazy, rounds := R }) :
    exec (.enc v r p) s = .next (answer s (lazyChain s ks.k0 p (ks.later.take R.toNat))) := by
  rw [exec_enc p loaded config, encrypt, encryptLazy, lazyChain_eq]

/-- Settles O46: `exec_enc_lazy` at the four round counts. -/
theorem encLazyIsItsRounds : Obligations.EncLazyIsItsRounds := by
  unfold Obligations.EncLazyIsItsRounds
  intro s ks p loaded
  exact ⟨exec_enc_lazy p .one loaded rfl, exec_enc_lazy p .two loaded rfl, exec_enc_lazy p .three loaded rfl,
    exec_enc_lazy p .four loaded rfl⟩

/-! Decryption. -/

theorem decrypt_eq (P : Params) (c : Half) (K : RoundKeys) :
    decrypt P c K = toBlock (addRoundKey (invRound P (invFinalRound P (toState c) K.k2) K.k1) K.k0) := rfl

/-- R182: Standard with two rounds. -/
theorem encrypt_standard2 (P : Params) (p : Half) (K : RoundKeys) :
    encrypt P p K standard2 = toBlock (finalRound P (fullRound P (addRoundKey (toState p) K.k0) K.k1) K.k2) := rfl

/-- R188: each step is undone, the last one first. -/
theorem decrypt_encrypt (P : Params) (p : Half) (K : RoundKeys) : decrypt P (encrypt P p K standard2) K = p := by
  rw [decrypt_eq, encrypt_standard2, toState_toBlock, invFinalRound_finalRound, invRound_fullRound,
    addRoundKey_addRoundKey, toBlock_toState]

theorem encrypt_decrypt (P : Params) (c : Half) (K : RoundKeys) : encrypt P (decrypt P c K) K standard2 = c := by
  rw [encrypt_standard2, decrypt_eq, toState_toBlock, addRoundKey_addRoundKey, fullRound_invRound,
    finalRound_invFinalRound, toBlock_toState]

/-- R189: DEC S2 with the round keys loaded. -/
theorem exec_dec {s : State} {ks : RoundKeys} (c : Half) (loaded : s.keys = some ks) :
    exec (.dec 0 2 c) s = .next (answer s (decrypt s.par c ks)) :=
  (reads_dec c).exec_loaded loaded

/-- Settles O48: the unit commands carry the state word from step to step of `decrypt`. -/
theorem decIsTheInverseSteps : Obligations.DecIsTheInverseSteps := by
  unfold Obligations.DecIsTheInverseSteps
  intro s ks c loaded
  rw [exec_dec c loaded, decrypt_eq, data_tostate, data_inverse_final_round_steps, unsw_sw, data_iround, unsw_sw,
    data_addkey, unsw_sw, data_toblock, unsw_sw]

/-- Settles O49: `decrypt_encrypt` and `encrypt_decrypt`. -/
theorem decryptionInvertsStandardTwo : Obligations.DecryptionInvertsStandardTwo := by
  unfold Obligations.DecryptionInvertsStandardTwo
  intro s ks loaded
  have enc : ∀ p, exec (.enc 0 2 p) s = .next (answer s (encrypt s.par p ks standard2)) :=
    fun p => exec_enc p loaded rfl
  have dec : ∀ c, exec (.dec 0 2 c) s = .next (answer s (decrypt s.par c ks)) := fun c => exec_dec c loaded
  exact ⟨fun p => ⟨_, enc p, by rw [dec, decrypt_encrypt]⟩, fun c => ⟨_, dec c, by rw [enc, encrypt_decrypt]⟩⟩

/-! Every step is injective. -/

theorem addRoundKey_injective (k : Half) : Function.Injective (addRoundKey · k) :=
  Function.LeftInverse.injective (g := (addRoundKey · k)) fun st => addRoundKey_addRoundKey st k

theorem subNibbles_injective (P : Params) : Function.Injective (subNibbles P) :=
  Function.LeftInverse.injective (invSubNibbles_subNibbles P)

theorem rowShift_injective : Function.Injective rowShift :=
  Function.LeftInverse.injective rowShift_rowShift

theorem toState_injective : Function.Injective toState :=
  Function.LeftInverse.injective toBlock_toState

theorem toBlock_injective : Function.Injective toBlock :=
  Function.LeftInverse.injective toState_toBlock

theorem fullRound_injective (P : Params) (k : Half) : Function.Injective (fullRound P · k) :=
  Function.LeftInverse.injective (g := (invRound P · k)) fun st => invRound_fullRound P st k

theorem finalRound_injective (P : Params) (k : Half) : Function.Injective (finalRound P · k) :=
  Function.LeftInverse.injective (g := (invFinalRound P · k)) fun st => invFinalRound_finalRound P st k

theorem lazyRound_injective (P : Params) (k : Half) : Function.Injective (lazyRound P · k) := by
  intro st t same
  have substituted := addRoundKey_injective k same
  split at substituted
  case isTrue => exact subNibbles_injective P (rowShift_injective substituted)
  case isFalse => exact subNibbles_injective P substituted

theorem initialState_injective (K : RoundKeys) : Function.Injective (initialState · K) :=
  (addRoundKey_injective K.k0).comp toState_injective

/-- Rounds with each key of a list. -/
theorem foldl_injective {round : Nibbles → Half → Nibbles} (h : ∀ k, Function.Injective (round · k)) (keys : List Half) :
    Function.Injective (keys.foldl round) := by
  induction keys with
  | nil => exact fun _ _ same => same
  | cons k keys ih => exact ih.comp (h k)

/-- R185: each of the three variants composes injective steps. -/
theorem encrypt_injective (P : Params) (K : RoundKeys) (cc : CipherConfig) :
    Function.Injective fun p => encrypt P p K cc := by
  obtain ⟨variant, R⟩ := cc
  cases variant with
  | standard =>
    exact toBlock_injective.comp ((finalRound_injective P (K.last R)).comp
      ((foldl_injective (fullRound_injective P) (K.later.take (R.toNat - 1))).comp (initialState_injective K)))
  | lazy =>
    exact toBlock_injective.comp
      ((foldl_injective (lazyRound_injective P) (K.later.take R.toNat)).comp (initialState_injective K))
  | veryLazy =>
    exact toBlock_injective.comp
      ((foldl_injective (lazyRound_injective P) (List.replicate R.toNat K.k0)).comp (initialState_injective K))

/-- Settles O50: `encrypt_injective`, and an injective map of the finitely many Blocks to themselves is onto. -/
theorem encIsABijectionOnBlocks : Obligations.EncIsABijectionOnBlocks := by
  unfold Obligations.EncIsABijectionOnBlocks
  intro s ks v r loaded wellFormed
  obtain ⟨cc, config⟩ := exists_configOf wellFormed
  have enc : ∀ p, exec (.enc v r p) s = .next (answer s (encrypt s.par p ks cc)) := fun p => exec_enc p loaded config
  constructor
  case left =>
    intro p q same
    rw [data_eq_of_exec (enc p), data_eq_of_exec (enc q)] at same
    exact encrypt_injective s.par ks cc same
  case right =>
    intro c
    obtain ⟨p, hit⟩ := Finite.surjective_of_injective (encrypt_injective s.par ks cc) c
    exact ⟨p, by rw [enc, ← hit]⟩

/-! Which round keys a configuration reads. -/

/-- R185: the data of ENC, with or without round keys. -/
theorem data_enc {v : BitVec 2} {r : BitVec 3} {cc : CipherConfig} (p : Half) (s : State)
    (config : configOf v r = some cc) : data (.enc v r p) s = s.keys.elim 0 fun ks => encrypt s.par p ks cc :=
  (reads_enc p config).data_eq s

theorem variantOf_of_configOf {v : BitVec 2} {r : BitVec 3} {cc : CipherConfig} (config : configOf v r = some cc) :
    variantOf v = some cc.variant := by
  unfold configOf at config
  split at config
  next variant rounds found _ => cases config; exact found
  next => cases config

/-! R181: which entries of the key file each variant reads. -/

theorem encrypt_standard_congr (P : Params) (p : Half) {K K' : RoundKeys} (R : RoundCount) (k0 : K.k0 = K'.k0)
    (full : K.later.take (R.toNat - 1) = K'.later.take (R.toNat - 1)) (last : K.last R = K'.last R) :
    encrypt P p K ⟨.standard, R⟩ = encrypt P p K' ⟨.standard, R⟩ := by
  simp only [encrypt, encryptStandard, initialState, k0, full, last]

theorem encrypt_lazy_congr (P : Params) (p : Half) {K K' : RoundKeys} (R : RoundCount) (k0 : K.k0 = K'.k0)
    (rounds : K.later.take R.toNat = K'.later.take R.toNat) : encrypt P p K ⟨.lazy, R⟩ = encrypt P p K' ⟨.lazy, R⟩ := by
  simp only [encrypt, encryptLazy, initialState, k0, rounds]

theorem encrypt_veryLazy_congr (P : Params) (p : Half) {K K' : RoundKeys} {cc : CipherConfig}
    (veryLazy : cc.variant = .veryLazy) (k0 : K.k0 = K'.k0) : encrypt P p K cc = encrypt P p K' cc := by
  simp only [encrypt, veryLazy, encryptVeryLazy, initialState, k0]

theorem decrypt_congr (P : Params) (c : Half) {K K' : RoundKeys} (k0 : K.k0 = K'.k0) (k1 : K.k1 = K'.k1)
    (k2 : K.k2 = K'.k2) : decrypt P c K = decrypt P c K' := by
  rw [decrypt_eq, decrypt_eq, k0, k1, k2]

/-- R181: round keys that give a reader of RK the same value give the same data. -/
theorem Reads.data_congr {i : Instr} {value : Params → RoundKeys → Half} {s : State} {ks ks' : RoundKeys}
    (reads : Reads i value) (loaded : s.keys = some ks) (same : value s.par ks = value s.par ks') :
    data i s = data i { s with keys := some ks' } := by
  rw [data_eq_of_exec (reads.exec_loaded loaded), same, reads.data_eq, Option.elim_some]

/-- R181, R184: under round keys with the same K0 the data of VeryLazy is the same, legal round count or not. -/
theorem data_enc_veryLazy_congr {s : State} {ks ks' : RoundKeys} (r : BitVec 3) (p : Half) (loaded : s.keys = some ks)
    (k0 : ks.k0 = ks'.k0) : data (.enc 2 r p) s = data (.enc 2 r p) { s with keys := some ks' } := by
  cases wellFormed : (Instr.enc 2 r p).wellFormed with
  | false =>
    rw [data_eq_zero_of_faulted (exec_of_illFormed _ wellFormed), data_eq_zero_of_faulted (exec_of_illFormed _ wellFormed)]
  | true =>
    obtain ⟨cc, config⟩ := exists_configOf (v := 2) (r := r) wellFormed
    have variant : some Variant.veryLazy = some cc.variant := variantOf_of_configOf config
    exact (reads_enc p config).data_congr loaded (encrypt_veryLazy_congr s.par p (Option.some.inj variant).symm k0)

/-- Settles O51: what each configuration reads is the same, for VeryLazy K0 alone. -/
theorem unusedRoundKeysDoNotMatter : Obligations.UnusedRoundKeysDoNotMatter := by
  unfold Obligations.UnusedRoundKeysDoNotMatter
  rintro s _ ⟨k0, k1, k2, k3, k4⟩ ⟨k0', k1', k2', k3', k4'⟩ p loaded rfl (rfl : k0 = k0')
  refine ⟨fun r => data_enc_veryLazy_congr r p loaded rfl, ?_⟩
  rintro (rfl : k1 = k1')
  refine ⟨⟨(reads_enc p rfl).data_congr loaded (encrypt_standard_congr s.par p .one rfl rfl rfl),
    (reads_enc p rfl).data_congr loaded (encrypt_lazy_congr s.par p .one rfl rfl)⟩, ?_⟩
  rintro (rfl : k2 = k2')
  refine ⟨⟨(reads_enc p rfl).data_congr loaded (encrypt_standard_congr s.par p .two rfl rfl rfl),
    (reads_enc p rfl).data_congr loaded (encrypt_lazy_congr s.par p .two rfl rfl),
    (reads_dec p).data_congr loaded (decrypt_congr s.par p rfl rfl rfl)⟩, ?_⟩
  rintro (rfl : k3 = k3')
  exact ⟨(reads_enc p rfl).data_congr loaded (encrypt_standard_congr s.par p .three rfl rfl rfl),
    (reads_enc p rfl).data_congr loaded (encrypt_lazy_congr s.par p .three rfl rfl)⟩

/-- R190: one lazy round with the row shift is a final round. -/
theorem lazyRound_eq_finalRound {P : Params} (h : P.lazyRowShift = true) (st : Nibbles) (k : Half) :
    lazyRound P st k = finalRound P st k := by
  rw [lazyRound, finalRound, if_pos h]

/-- Settles O52: one lazy round with the row shift is a final round; without round keys both data are 0. -/
theorem lazyOneWithRowShiftIsStandardOne : Obligations.LazyOneWithRowShiftIsStandardOne := by
  unfold Obligations.LazyOneWithRowShiftIsStandardOne
  intro s p rowShifts
  rw [data_enc (cc := ⟨.lazy, .one⟩) p s rfl, data_enc (cc := ⟨.standard, .one⟩) p s rfl]
  congr 1
  funext ks
  exact congrArg toBlock (lazyRound_eq_finalRound rowShifts _ _)

/-! The lazy ciphers, nibble by nibble. -/

theorem nib_xor (j : Nat) (x y : Half) : nib j (x ^^^ y) = nib j x ^^^ nib j y := by
  simp only [nib_eq_extractLsb', BitVec.extractLsb'_xor]

/-- R121: the nibbles of a Block, lowest first. -/
theorem nib_toBlock (st : Nibbles) :
    nib 0 (toBlock st) = st.s3 ∧ nib 1 (toBlock st) = st.s1 ∧ nib 2 (toBlock st) = st.s2 ∧ nib 3 (toBlock st) = st.s0 := by
  have positions : unsw (toBlock st) = swapMiddle st := by rw [toBlock_eq, unsw_sw]
  rw [unsw_eq_nib, swapMiddle, Nibbles.mk.injEq] at positions
  obtain ⟨h3, h2, h1, h0⟩ := positions
  exact ⟨h0, h1, h2, h3⟩

theorem nib_toBlock_subNibbles (P : Params) (st : Nibbles) {j : Nat} (inRange : j < 4) :
    nib j (toBlock (subNibbles P st)) = subNibble P (nib j (toBlock st)) := by
  obtain ⟨h0, h1, h2, h3⟩ := nib_toBlock st
  obtain ⟨g0, g1, g2, g3⟩ := nib_toBlock (subNibbles P st)
  interval_cases j
  · rw [g0, h0, subNibbles]
  · rw [g1, h1, subNibbles]
  · rw [g2, h2, subNibbles]
  · rw [g3, h3, subNibbles]

/-- R183: a lazy round without the row shift, in nibble `j` of the Block. -/
theorem nib_toBlock_lazyRound {P : Params} (noShift : P.lazyRowShift = false) {j : Nat} (inRange : j < 4) (st : Nibbles)
    (k : Half) : nib j (toBlock (lazyRound P st k)) = subNibble P (nib j (toBlock st)) ^^^ nib j k := by
  rw [lazyRound, if_neg (ne_true_of_eq_false noShift), toBlock_addRoundKey, nib_xor, nib_toBlock_subNibbles P st inRange]

theorem nib_toBlock_foldl_lazyRound {P : Params} (noShift : P.lazyRowShift = false) {j : Nat} (inRange : j < 4)
    (keys : List Half) (st : Nibbles) :
    nib j (toBlock (keys.foldl (lazyRound P) st)) =
      keys.foldl (fun n k => subNibble P n ^^^ nib j k) (nib j (toBlock st)) :=
  (List.foldl_hom (fun st => nib j (toBlock st)) fun st k => (nib_toBlock_lazyRound noShift inRange st k).symm).symm

theorem nib_toBlock_initialState (j : Nat) (p : Half) (K : RoundKeys) :
    nib j (toBlock (initialState p K)) = nib j p ^^^ nib j K.k0 := by
  rw [initialState, toBlock_addRoundKey, toBlock_toState, nib_xor]

/-- R183, R184: Lazy and VeryLazy run lazy rounds with keys that do not depend on the plaintext. -/
theorem exists_lazyRounds (P : Params) (K : RoundKeys) {cc : CipherConfig} (notStandard : cc.variant ≠ .standard) :
    ∃ keys : List Half, ∀ p, encrypt P p K cc = toBlock (keys.foldl (lazyRound P) (initialState p K)) := by
  obtain ⟨variant, R⟩ := cc
  cases variant with
  | standard => exact absurd rfl notStandard
  | lazy => exact ⟨K.later.take R.toNat, fun _ => rfl⟩
  | veryLazy => exact ⟨List.replicate R.toNat K.k0, fun _ => rfl⟩

/-- R66: variants 1 and 2 are not Standard. -/
theorem variant_ne_standard {v : BitVec 2} {r : BitVec 3} {cc : CipherConfig} (config : configOf v r = some cc)
    (h : v = 1 ∨ v = 2) : cc.variant ≠ .standard := by
  have variant := variantOf_of_configOf config
  intro standard
  rw [standard] at variant
  obtain rfl | rfl := h
  · exact absurd variant (by decide)
  · exact absurd variant (by decide)

/-- Settles O53: nibble `j` of the ciphertext is a function of nibble `j` of the plaintext. -/
theorem lazyCiphersActNibblewise : Obligations.LazyCiphersActNibblewise := by
  unfold Obligations.LazyCiphersActNibblewise
  intro s ks v r j p q loaded noShift lazy wellFormed inRange same
  obtain ⟨cc, config⟩ := exists_configOf wellFormed
  obtain ⟨keys, rounds⟩ := exists_lazyRounds s.par ks (variant_ne_standard config lazy)
  have nibble : ∀ x, nib j (data (.enc v r x) s) =
      keys.foldl (fun n k => subNibble s.par n ^^^ nib j k) (nib j x ^^^ nib j ks.k0) := by
    intro x
    rw [data_eq_of_exec (exec_enc x loaded config), rounds, nib_toBlock_foldl_lazyRound noShift inRange,
      nib_toBlock_initialState]
  rw [nibble, nibble, same]

end Sys2Proof.Machine
end
